-- ==== Sys2Proof/Word.lean ====
section
/-! DEFINITION. The widths of the block's values (spec rules R9, R13): nothing in the block is signed,
so a value is a plain bit vector. -/

namespace Sys2Proof

/-- A 32-bit value: a register, a command word, a host-window offset or bus data (R13, R41, R60). -/
abbrev Word := BitVec 32

/-- An 8-bit value: a lane, a table entry, an IBUF byte or ARG (R13). -/
abbrev Byte := BitVec 8

end Sys2Proof
end

