-- ==== Sys2Proof/Syntax.lean ====
section
/-! DEFINITION. The commands of interface version 1 (R3, R62), one constructor per row of
spec/opcode_table.json. -/

namespace Sys2Proof

/-- A command. ARG = W[15:8] is an operand of LOOKUP only, but the other three commands accept any ARG
(R62) and a disassembler shows it (R69), so each constructor keeps it and no bit of a word is lost. -/
inductive Instr where
  /-- NOP (R100); ARG ignored. -/
  | nop (arg : Byte)
  /-- HASH (R78); ARG ignored, its operands are LENGTH, CONFIG.LA_CHECK and IBUF (R63). -/
  | hash (arg : Byte)
  /-- LOOKUP (R73); ARG is the table index b. -/
  | lookup (b : Byte)
  /-- CLEAR (R101); ARG ignored. -/
  | clear (arg : Byte)
  deriving DecidableEq, Repr

end Sys2Proof
end

