-- ==== Sys2Proof/Decode.lean ====
section
/-! DEFINITION. Decoding and encoding of command words (R60 to R66). -/

namespace Sys2Proof

/-- Why a word is ILLEGAL (R64, R102). -/
inductive Illegal where
  /-- RSV0 = W[7:4] is not zero. -/
  | rsv0
  /-- RSV1 = W[31:16] is not zero. -/
  | rsv1
  /-- OP is one of the reserved opcodes 0x4 to 0xF. -/
  | opcode
  deriving DecidableEq, Repr

/-- OP = W[3:0] (R60). -/
def opField (w : Word) : BitVec 4 := w.extractLsb' 0 4

/-- RSV0 = W[7:4] (R60). -/
def rsv0Field (w : Word) : BitVec 4 := w.extractLsb' 4 4

/-- ARG = W[15:8] (R60, R63). -/
def argField (w : Word) : Byte := w.extractLsb' 8 8

/-- RSV1 = W[31:16] (R60). -/
def rsv1Field (w : Word) : BitVec 16 := w.extractLsb' 16 16

/-- The opcode map (R62) on OP and ARG. -/
def commandOf (op : BitVec 4) (arg : Byte) : Except Illegal Instr :=
  if op = 0x0#4 then .ok (.nop arg)
  else if op = 0x1#4 then .ok (.hash arg)
  else if op = 0x2#4 then .ok (.lookup arg)
  else if op = 0x3#4 then .ok (.clear arg)
  else .error .opcode

/-- `decode(W)` of R64: total on every word; an error is the outcome ILLEGAL, by name. -/
def decode (w : Word) : Except Illegal Instr :=
  if rsv0Field w ≠ 0 then .error .rsv0
  else if rsv1Field w ≠ 0 then .error .rsv1
  else commandOf (opField w) (argField w)

/-- The opcode of a command (R62). -/
def Instr.opcode : Instr → BitVec 4
  | .nop _ => 0x0#4
  | .hash _ => 0x1#4
  | .lookup _ => 0x2#4
  | .clear _ => 0x3#4

/-- The operand a command's word carries in ARG (R60, R63). -/
def Instr.operand : Instr → Byte
  | .nop a => a
  | .hash a => a
  | .lookup b => b
  | .clear a => a

/-- The command word of a command, from the format of R60:
`rrrrrrrr rrrrrrrr aaaaaaaa rrrroooo`, most-significant bit first. -/
def encode (i : Instr) : Word :=
  0#16 ++ i.operand ++ 0#4 ++ i.opcode

/-- A row of the encoding table of R65. -/
structure EncodingRow where
  mnemonic : String
  matchBits : Word
  mask : Word
  deriving DecidableEq, Repr

/-- The four rows of R65. -/
def encodingTable : List EncodingRow :=
  [⟨"NOP", 0x00000000#32, 0xFFFF00FF#32⟩,
   ⟨"HASH", 0x00000001#32, 0xFFFF00FF#32⟩,
   ⟨"LOOKUP", 0x00000002#32, 0xFFFF00FF#32⟩,
   ⟨"CLEAR", 0x00000003#32, 0xFFFF00FF#32⟩]

/-- "A match and mask pair selects a command when `(W & mask) == match`" (R65). -/
def rowSelects (r : EncodingRow) (w : Word) : Bool := w &&& r.mask == r.matchBits

/-- The mnemonic of a command (R62). -/
def Instr.mnemonic : Instr → String
  | .nop _ => "NOP"
  | .hash _ => "HASH"
  | .lookup _ => "LOOKUP"
  | .clear _ => "CLEAR"

/-- The decoder on an opcode-table word of `nbits` bits: every command is one 32-bit word (R61), bits
above `nbits` are zero, and a number of more than 32 bits is no command word. -/
def decodeTableWord (nbits w : Nat) : Option Instr :=
  if w % 2 ^ nbits < 2 ^ 32 then (decode (BitVec.ofNat 32 (w % 2 ^ nbits))).toOption else none

end Sys2Proof
end

