-- ==== Sys2Proof/Machine/Constants.lean ====
section
/-! DEFINITION. The parameters the source or the spec fixes (R7). -/

namespace Sys2Proof.Machine

/-- SEED_LEN, the minimum length (R7, R79). -/
def seedLen : Nat := 4

/-- SCAN_START, the first index the scan examines (R7, R82; conflict C1 keeps 1). -/
def scanStart : Word := 1#32

/-- SIZE_LIMIT, the largest signed 32-bit value (R7, R80). -/
def sizeLimit : Nat := 0x7FFFFFFF

/-- TERM, the terminator byte (R7, R84). -/
def term : Byte := 0x00#8

/-- SEP, the separator byte "/" (R7, R85). PRESUMED by the spec itself (G1; log entry 13). -/
def sep : Byte := 0x2F#8

/-- LA_GUARD, what the look-ahead sees at index IN_SIZE (R7, R86). -/
def laGuard : Byte := 0x00#8

/-- RESULT_MASK, which clears bits 5:0 (R7, R91). -/
def resultMask : Word := 0xFFFFFFC0#32

/-- IBUF_BASE, the host offset of IBUF byte 0 (R7, R42). -/
def ibufBase : Nat := 0x1000

end Sys2Proof.Machine
end

