-- ==== Sys2Proof/Config.lean ====
section
/-! DEFINITION. What an implementation fixes (R7: the two parameters of kind "argument") and the free
values (R45: the power-on contents of IBUF). Constants the spec itself fixes are in
Machine/Constants.lean. -/

namespace Sys2Proof

/-- The parameters a model takes as arguments (R7). They are held in `State` as plain data that no
step changes, so a claim ranges over every legal IN_SIZE and not over the default alone. -/
structure Params where
  /-- IN_SIZE, the number of bytes of IBUF (R43). -/
  inSize : Nat
  /-- N_INST, the number of independent engine instances of the platform (R121). -/
  nInst  : Nat
  deriving DecidableEq, Repr

/-- The defaults of R7: IN_SIZE = 4096, N_INST = 1. -/
def Params.default : Params := { inSize := 4096, nInst := 1 }

/-- FREE VALUE (R45, U4: "an 8-bit value fixed once at power-on, under no law"): the byte IBUF index
`i` of instance `inst` holds after that instance's power-on number `n` until the host writes it.
No body: nothing can be proved of a value of it. Log entry 2. -/
opaque Config.powerOnByte (inst n i : Nat) : Byte

end Sys2Proof
end

