-- ==== Sys2Proof/Machine/State.lean ====
section
/-! DEFINITION. The state of one engine instance (R15), with its bus port, its host and the order of the
agents' steps (R12, R41, R55), all plain data; and the state right after power-on and reset (R38, R128). -/

namespace Sys2Proof.Machine

/-- The four states of the sequencer (R20). Their binary encoding is not architectural (U15). -/
inductive Fsm where
  | idle
  | seed
  | scan
  | finish
  deriving DecidableEq, Repr

/-- LANE[0] to LANE[3] (R18). -/
structure Lanes where
  l0 : Byte
  l1 : Byte
  l2 : Byte
  l3 : Byte
  deriving DecidableEq, Repr

/-- The errors a command can raise (R110). Their code values are in Machine/Flags.lean. -/
inductive ErrCode where
  /-- OOB_SHORT. -/
  | short
  /-- OOB_SIZE. -/
  | size
  /-- OOB_BUFFER. -/
  | buffer
  /-- OOB_LOOKAHEAD. -/
  | lookAhead
  /-- ILLEGAL_CMD. -/
  | illegalCmd
  deriving DecidableEq, Repr

/-- The size of a bus transaction: 1, 2 or 4 bytes (R41, R98). -/
inductive Size where
  | byte
  | half
  | word
  deriving DecidableEq, Repr

/-- A host bus transaction, `MemRead(off, n)` or `MemWrite(off, n, v)` (R98). -/
inductive Txn where
  | read (off : Word) (size : Size)
  | write (off : Word) (size : Size) (data : Word)
  deriving DecidableEq, Repr

/-- One item of what the host has left to do: a transaction, or the loop `waitidle` (R68, R70). -/
inductive HostOp where
  | txn (t : Txn)
  | waitIdle
  deriving DecidableEq, Repr

/-- Whose step comes next in the total order of R55. -/
inductive Turn where
  /-- The host issues its next transaction (R12, R98). -/
  | host
  /-- The engine takes its next step (R12, R23). -/
  | engine
  /-- `rst` is asserted: the reset event, one atomic step (R126). -/
  | reset
  /-- Power is lost and comes back: IBUF holds new draws, then the reset event (R125, R128). -/
  | powerCycle
  deriving DecidableEq, Repr

/-- `resp` (R41). -/
inductive Resp where
  | okay
  | error
  deriving DecidableEq, Repr

/-- The response to a transaction (R98): `resp`, and `rdata` when it was a read. -/
structure BusResponse where
  resp : Resp
  rdata : Option Word
  deriving DecidableEq, Repr

/-- The bytes of IBUF written since power-on, as (index, byte) pairs with indices strictly rising. An
index that is not listed holds no written value: `Memory.read?` gives `none` there, and no entry can
equal that, so equal contents are equal lists. What such a byte reads as is the draw of R45
(`State.ibufByte`). -/
abbrev Memory := List Host.Cell

/-- The state of one instance. -/
structure State where
  /-- IN_SIZE and N_INST (R7); no step changes them. -/
  params   : Params
  /-- LANE[0..3] (R18). -/
  lanes    : Lanes
  /-- IDX (R21). -/
  idx      : Word
  /-- LENL, the latched length (R22). -/
  lenl     : Word
  /-- LAL, the latched look-ahead mode: true = CHECKED (R22). -/
  lal      : Bool
  /-- FSM (R20). STATUS.BUSY is derived from it (R27). -/
  fsm      : Fsm
  /-- STATUS.DONE (R28). -/
  done     : Bool
  /-- STATUS.ERR (R29). -/
  err      : Bool
  /-- STATUS.REJ (R30). -/
  rej      : Bool
  /-- STATUS.ERRCODE (R29, R110). -/
  errCode  : BitVec 4
  /-- LENGTH (R31). -/
  length   : Word
  /-- RESULT (R32). -/
  result   : Word
  /-- LKUP[15:0]: INDEX in bits 15:8, DATA in bits 7:0; bits 31:16 are hard-wired to 0 (R15, R33). -/
  lkup     : BitVec 16
  /-- CONFIG.IE (R34). -/
  ie       : Bool
  /-- CONFIG.LA_CHECK: false = READ_PAST, true = CHECKED (R34). -/
  laCheck  : Bool
  /-- IBUF: the bytes written since power-on (R43, R45). -/
  ibuf     : Memory
  /-- MODEL'S OWN: which instance of the platform this is; an argument of the free value only
  (DESIGN CHOICE, log entry 2). -/
  instNo   : Nat
  /-- MODEL'S OWN: how many power cycles this instance has had; an
  argument of the free value only (DESIGN CHOICE, log entry 2). -/
  powerOns : Nat
  /-- The `resp` and `rdata` outputs as the latest host transaction left them (R41, R98); none before the
  first (DESIGN CHOICE, log entry 6). -/
  bus      : Option BusResponse
  /-- The host's remaining transactions, in issue order (R55; DESIGN CHOICE, log entry 5). -/
  host     : List HostOp
  /-- The order of the steps to come, as far as it is given (R12, R55; DESIGN CHOICE, log entry 4). -/
  turns    : List Turn
  deriving DecidableEq, Repr

/-- Why the machine stops. -/
inductive Fault where
  /-- Raised by an engine step that would read an IBUF index that does not exist (R44: "The engine never
  reads an index above IN_SIZE"). Safe: it is reached only from states that no run reaches, where IDX or
  LENL breaks R21 or IN_SIZE breaks R8. -/
  | engineReadOutsideIbuf
  deriving DecidableEq, Repr

/-- Why the model gives a step no meaning. -/
inductive Refusal where
  /-- An instruction with no meaning yet; no arm of `exec` answers so. Safe. -/
  | notModelled (mnemonic : String)
  /-- Raised by a host transaction at or above IBUF_BASE + IN_SIZE: "outside the block", "the model
  refuses them (no such step)" (R42, U12). Safe. -/
  | outsideWindow
  deriving DecidableEq, Repr

/-- The outcome of a step of this machine. -/
abbrev Outcome := Host.Outcome State Fault Refusal

/-- The state right after power-on and reset (R38, R128), with the default parameters (R7): every
register 0, FSM IDLE, no IBUF byte written. Nothing is pending: the host has issued no transaction. -/
def State.reset : State where
  params   := Params.default
  lanes    := ⟨0x00#8, 0x00#8, 0x00#8, 0x00#8⟩
  idx      := 0x00000000#32
  lenl     := 0x00000000#32
  lal      := false
  fsm      := .idle
  done     := false
  err      := false
  rej      := false
  errCode  := 0x0#4
  length   := 0x00000000#32
  result   := 0x00000000#32
  lkup     := 0x0000#16
  ie       := false
  laCheck  := false
  ibuf     := []
  instNo   := 0
  powerOns := 0
  bus      := none
  host     := []
  turns    := []

end Sys2Proof.Machine
end

