-- ==== Sys2Proof/Machine/Flags.lean ====
section
/-! DEFINITION. Every value that is computed from the stored flags: the codes of R110, STATUS.BUSY, the
words STATUS, CONFIG and LKUP as a host reads them, and `irq` (R26, R27, R33 to R35). -/

namespace Sys2Proof.Machine

/-- The 4-bit value of an error code (R110). -/
def ErrCode.code : ErrCode → BitVec 4
  | .short => 0x1#4
  | .size => 0x2#4
  | .buffer => 0x3#4
  | .lookAhead => 0x4#4
  | .illegalCmd => 0x8#4

/-- STATUS.BUSY: 1 exactly when FSM is not IDLE (R27). -/
def State.busy (s : State) : Bool :=
  match s.fsm with
  | .idle => false
  | .seed => true
  | .scan => true
  | .finish => true

/-- What a read of STATUS returns: `zext_32({ERRCODE, REJ, ERR, DONE, BUSY})` (R26). -/
def State.statusWord (s : State) : Word :=
  0#24 ++ s.errCode ++ BitVec.ofBool s.rej ++ BitVec.ofBool s.err ++ BitVec.ofBool s.done
    ++ BitVec.ofBool s.busy

/-- What a read of CONFIG returns: IE in bit 0, LA_CHECK in bit 1, the rest 0 (R34). -/
def State.configWord (s : State) : Word :=
  0#30 ++ BitVec.ofBool s.laCheck ++ BitVec.ofBool s.ie

/-- What a read of LKUP returns: bits 31:16 read as 0 (R33). -/
def State.lkupWord (s : State) : Word := 0#16 ++ s.lkup

/-- `irq = CONFIG.IE & (STATUS.DONE | STATUS.ERR)` (R35, R119). -/
def State.irq (s : State) : Bool := s.ie && (s.done || s.err)

end Sys2Proof.Machine
end

