-- ==== Sys2Proof/Machine/Ops.lean ====
section
/-! DEFINITION. The named operations over IBUF and the registers, the error entry (R116) and the reset
event (R127). Each is one update of the state; the steps and the commands are built from them. -/

namespace Sys2Proof.Machine

/-! ## IBUF as a list of written bytes -/

/-- The written byte at index `i`, or `none` if nothing has been written there since power-on (R45). -/
def Memory.read? (m : Memory) (i : Nat) : Option Byte :=
  match m with
  | [] => none
  | (j, v) :: rest => if j = i then some v else Memory.read? rest i

/-- Write one byte, keeping the indices strictly rising. -/
def Memory.write (m : Memory) (i : Nat) (v : Byte) : Memory :=
  match m with
  | [] => [(i, v)]
  | (j, u) :: rest =>
    if i < j then (i, v) :: (j, u) :: rest
    else if i = j then (i, v) :: rest
    else (j, u) :: Memory.write rest i v

/-- Write bytes at `i`, `i + 1`, … in order. -/
def Memory.writeBytes (m : Memory) (i : Nat) (vs : List Byte) : Memory :=
  match vs with
  | [] => m
  | v :: rest => Memory.writeBytes (Memory.write m i v) (i + 1) rest

/-- The canonical form: every listed index is at least `lo` and below `size`, and they rise strictly. -/
def Memory.wfFrom (lo size : Nat) (m : Memory) : Bool :=
  match m with
  | [] => true
  | (j, _) :: rest => decide (lo ≤ j) && decide (j < size) && Memory.wfFrom (j + 1) size rest

/-- IBUF's list is canonical and names no index outside IBUF (R43). -/
def Memory.wf (size : Nat) (m : Memory) : Bool := Memory.wfFrom 0 size m

/-- `IBUF[i]` (R44, R45): the byte written there, else the draw fixed at power-on. -/
def State.ibufByte (s : State) (i : Nat) : Byte :=
  match Memory.read? s.ibuf i with
  | some v => v
  | none => Config.powerOnByte s.instNo s.powerOns i

/-! ## Single updates -/

/-- The order of the steps to come. -/
def State.setTurns (s : State) (ts : List Turn) : State := { s with turns := ts }

/-- What the host has left to do. -/
def State.setHost (s : State) (ops : List HostOp) : State := { s with host := ops }

/-- Drive `resp` and `rdata` (R41, R98). -/
def State.respond (s : State) (r : BusResponse) : State := { s with bus := some r }

/-- LENGTH <- v (R31, R104). -/
def State.setLength (s : State) (v : Word) : State := { s with length := v }

/-- CONFIG.IE <- v[0], CONFIG.LA_CHECK <- v[1]; v[31:2] ignored (R34, R104). -/
def State.setConfig (s : State) (v : Word) : State :=
  { s with ie := v.getLsbD 0, laCheck := v.getLsbD 1 }

/-- Write bytes to IBUF from index `i` on (R105). -/
def State.writeIbuf (s : State) (i : Nat) (vs : List Byte) : State :=
  { s with ibuf := Memory.writeBytes s.ibuf i vs }

/-- "Every such command first sets ERR <- 0 and ERRCODE <- 0x0" (R29). -/
def State.beginCommand (s : State) : State := { s with err := false, errCode := 0x0#4 }

/-- STATUS.DONE <- 0 (R78). -/
def State.clearDone (s : State) : State := { s with done := false }

/-- STATUS.REJ <- 1 (R30). -/
def State.reject (s : State) : State := { s with rej := true }

/-- LKUP <- v (R73). -/
def State.setLkup (s : State) (v : BitVec 16) : State := { s with lkup := v }

/-- The writes of CLEAR (R101). There is no return from an error (R118): this acknowledges one. -/
def State.clearResults (s : State) : State :=
  { s with
    done := false
    err := false
    errCode := 0x0#4
    rej := false
    result := 0x00000000#32
    lkup := 0x0000#16 }

/-- LENL <- n, LAL <- CONFIG.LA_CHECK, FSM <- SEED (R78). -/
def State.latchHash (s : State) : State :=
  { s with lenl := s.length, lal := s.laCheck, fsm := .seed }

/-- The writes of SEED: LANE <- L, IDX <- 1, FSM <- SCAN (R83). -/
def State.startScan (s : State) (L : Lanes) : State :=
  { s with lanes := L, idx := scanStart, fsm := .scan }

/-- FSM <- FINISH (R84, R85). -/
def State.endScan (s : State) : State := { s with fsm := .finish }

/-- The writes of a fold: LANE <- L, IDX <- IDX + 1 (R88). -/
def State.advance (s : State) (L : Lanes) : State := { s with lanes := L, idx := s.idx + 1#32 }

/-- The writes of FINISH: RESULT <- v, DONE <- 1, FSM <- IDLE, in one step (R90). -/
def State.publish (s : State) (v : Word) : State :=
  { s with result := v, done := true, fsm := .idle }

/-! ## Error entry, rejection, reset -/

/-- ERROR ENTRY (R116), shared by every `raise OutOfBounds(c)` and by `raise IllegalCommand`: ERR <- 1,
ERRCODE <- c, FSM <- IDLE, nothing else. It saves nothing, and nothing returns from it (R118). -/
def State.raiseError (s : State) (c : ErrCode) : State :=
  { s with err := true, errCode := c.code, fsm := .idle }

/-- The busy test every command but NOP makes (R99): while BUSY = 1 it is dropped and REJ is set,
otherwise it has its effect. -/
def State.whenIdle (s : State) (effect : State → State) : State :=
  if s.busy then s.reject else effect s

/-- RESET EVENT (R127): every register to its value of R38; T, IBUF and the parameters are not changed,
and what the host has left to do is outside the block. -/
def State.resetEvent (s : State) : State :=
  { s with
    lanes := ⟨0x00#8, 0x00#8, 0x00#8, 0x00#8⟩
    idx := 0x00000000#32
    lenl := 0x00000000#32
    lal := false
    fsm := .idle
    done := false
    err := false
    rej := false
    errCode := 0x0#4
    length := 0x00000000#32
    result := 0x00000000#32
    lkup := 0x0000#16
    ie := false
    laCheck := false }

/-- IBUF after power is lost and comes back: nothing written, a new draw for every byte (R45, R125). -/
def State.losePower (s : State) : State := { s with ibuf := [], powerOns := s.powerOns + 1 }

/-- Power-on, followed by the reset event before any host transaction (R128). -/
def State.powerCycle (s : State) : State := s.losePower.resetEvent

end Sys2Proof.Machine
end

