-- ==== Sys2Proof/Machine/Control.lean ====
section
/-! DEFINITION. The interface commands NOP and CLEAR, and what an ILLEGAL word does (R100 to R102). -/

namespace Sys2Proof.Machine

/-- NOP (R100): the step changes no state, busy or idle. -/
def execNop (_arg : Byte) (s : State) : Outcome := .next s

/-- CLEAR (R101, R99); ARG is ignored. -/
def execClear (_arg : Byte) (s : State) : Outcome := .next (s.whenIdle State.clearResults)

/-- An ILLEGAL word on an idle engine (R102): ERR <- 0, ERRCODE <- 0, then raise IllegalCommand. -/
def raiseIllegal (s : State) : State := s.beginCommand.raiseError .illegalCmd

/-- An ILLEGAL word (R99, R102): the error when idle, only REJ when busy. -/
def illegalWord (s : State) : Outcome := .next (s.whenIdle raiseIllegal)

end Sys2Proof.Machine
end

