-- ==== Sys2Proof/Machine/Operands.lean ====
section
/-! DEFINITION. Where the commands' operands come from (R63): the length and its checks (R79 to R81),
the engine's reads of IBUF (R44) and the look-ahead (R85 to R87); and the datapath on the lanes (R76):
seed, fold, pack, mask. -/

namespace Sys2Proof.Machine

/-- The length checks, first hit first (R79, R80, R81, R115); `none` accepts the length. -/
def lengthCheck (inSize n : Nat) : Option ErrCode :=
  if n < seedLen then some .short
  else if n > sizeLimit then some .size
  else if n > inSize then some .buffer
  else none

/-- The engine's read of `IBUF[i]`; `none` where the index does not exist (R44). -/
def State.engineRead (s : State) (i : Nat) : Option Byte :=
  if i < s.params.inSize then some (s.ibufByte i) else none

/-- What the byte after a separator turns out to be (R85 to R87). -/
inductive LookAhead where
  /-- A byte inside the string, the byte after it, or the guard. -/
  | byte (nx : Byte)
  /-- CHECKED mode at the end of the string: error 0x4 (R87). -/
  | outOfBounds
  /-- An index that does not exist; only in states that no run reaches (R21, R44). -/
  | noSuchIndex
  deriving DecidableEq, Repr

/-- A read turned into a look-ahead. -/
def LookAhead.ofRead (r : Option Byte) : LookAhead :=
  match r with
  | some nx => .byte nx
  | none => .noSuchIndex

/-- The look-ahead for a separator at index `i` (R85): inside the string IBUF[i+1]; at its end error
0x4 when LAL = 1 (R87), else the byte IBUF[LENL], or LA_GUARD when LENL = IN_SIZE (R86). -/
def State.lookAhead (s : State) (i : Nat) : LookAhead :=
  if i + 1 < s.lenl.toNat then .ofRead (s.engineRead (i + 1))
  else if s.lal then .outOfBounds
  else if s.lenl.toNat = s.params.inSize then .byte laGuard
  else .ofRead (s.engineRead s.lenl.toNat)

/-- One function on all four lanes: the lanes are "folded independently" (R75). -/
def Lanes.map (f : Byte → Byte) (L : Lanes) : Lanes := ⟨f L.l0, f L.l1, f L.l2, f L.l3⟩

/-- The seeds: `LANE[k] <- T(byte k)` (R83). -/
def seedLanes (b0 b1 b2 b3 : Byte) : Lanes := ⟨T b0, T b1, T b2, T b3⟩

/-- The fold: `LANE[k] <- T(LANE[k] ^ b)` (R88). -/
def foldLanes (b : Byte) (L : Lanes) : Lanes := L.map (fun x => T (x ^^^ b))

/-- `Pack32(L) = {L[3], L[2], L[1], L[0]}`, little-endian (R47, R89). -/
def pack32 (L : Lanes) : Word := L.l3 ++ L.l2 ++ L.l1 ++ L.l0

/-- The output masker: pack and clear bits 5:0 (R89, R91). -/
def maskedKey (L : Lanes) : Word := pack32 L &&& resultMask

end Sys2Proof.Machine
end

