-- ==== Sys2Proof/Machine/Engine.lean ====
section
/-! DEFINITION. The engine's steps SEED, SCAN and FINISH (R23, R83 to R90). -/

namespace Sys2Proof.Machine

/-- SEED step (R83): four IBUF reads and four table reads in one step. -/
def seedStep (s : State) : Outcome :=
  match s.engineRead 0, s.engineRead 1, s.engineRead 2, s.engineRead 3 with
  | some b0, some b1, some b2, some b3 => .next (s.startScan (seedLanes b0 b1 b2 b3))
  | _, _, _, _ => .fault .engineReadOutsideIbuf

/-- What the classifier decides for the current byte (R76). -/
inductive Verdict where
  /-- The scan ends: length exhausted, terminator, or trailing separator (R84, R85). -/
  | stop
  /-- The byte is folded (R88). -/
  | fold (b : Byte)
  /-- The look-ahead fails (R87). -/
  | fail
  /-- An index that does not exist; only in states that no run reaches (R44). -/
  | noSuchIndex
  deriving DecidableEq, Repr

/-- The separator's verdict, from its look-ahead (R85). -/
def sepVerdict (b : Byte) (la : LookAhead) : Verdict :=
  match la with
  | .byte nx => if nx = term then .stop else .fold b
  | .outOfBounds => .fail
  | .noSuchIndex => .noSuchIndex

/-- The verdict on a byte read at index `i` (R84, R85, R88). -/
def byteVerdict (s : State) (i : Nat) (b : Byte) : Verdict :=
  if b = term then .stop
  else if b = sep then sepVerdict b (s.lookAhead i)
  else .fold b

/-- The classifier of a SCAN step, with i = IDX (R84 to R88). -/
def scanVerdict (s : State) : Verdict :=
  if s.idx = s.lenl then .stop
  else
    match s.engineRead s.idx.toNat with
    | some b => byteVerdict s s.idx.toNat b
    | none => .noSuchIndex

/-- SCAN step (R84 to R88). -/
def scanStep (s : State) : Outcome :=
  match scanVerdict s with
  | .stop => .next s.endScan
  | .fold b => .next (s.advance (foldLanes b s.lanes))
  | .fail => .next (s.raiseError .lookAhead)
  | .noSuchIndex => .fault .engineReadOutsideIbuf

/-- FINISH step (R90). -/
def finishStep (s : State) : Outcome := .next (s.publish (maskedKey s.lanes))

/-- One turn of the engine (R23). "The engine takes no step while FSM is IDLE." -/
def engineStep (s : State) : Outcome :=
  match s.fsm with
  | .idle => .next s
  | .seed => seedStep s
  | .scan => scanStep s
  | .finish => finishStep s

end Sys2Proof.Machine
end

