-- ==== Sys2Proof/Machine/Hash.lean ====
section
/-! DEFINITION. The command HASH: its accepting step (R78). The steps that follow are the engine's
(Machine/Engine.lean). -/

namespace Sys2Proof.Machine

/-- The accepting step of HASH on an idle engine (R78): clear DONE, ERR and ERRCODE, check LENGTH, then
either raise OutOfBounds or latch the operands and start the engine. -/
def acceptHash (s : State) : State :=
  match lengthCheck s.params.inSize s.length.toNat with
  | some c => s.clearDone.beginCommand.raiseError c
  | none => s.clearDone.beginCommand.latchHash

/-- HASH (R78, R99); ARG is ignored (R63). -/
def execHash (_arg : Byte) (s : State) : Outcome := .next (s.whenIdle acceptHash)

end Sys2Proof.Machine
end

