-- ==== Sys2Proof/Machine/Lookup.lean ====
section
/-! DEFINITION. The command LOOKUP (R73). -/

namespace Sys2Proof.Machine

/-- LOOKUP on an idle engine (R73): ERR <- 0, ERRCODE <- 0, LKUP <- {b, T(b)}. -/
def lookupEntry (b : Byte) (s : State) : State := s.beginCommand.setLkup (b ++ T b)

/-- LOOKUP (R73, R99). -/
def execLookup (b : Byte) (s : State) : Outcome := .next (s.whenIdle (lookupEntry b))

end Sys2Proof.Machine
end

