-- ==== Sys2Proof/Machine/Dispatch.lean ====
section
/-! DEFINITION. One arm per command (R99). -/

namespace Sys2Proof.Machine

/-- The effect of a decoded command in the step of its CMD write (R99). -/
def exec (i : Instr) (s : State) : Host.Outcome State Fault Refusal :=
  match i with
  | .nop arg => Sys2Proof.Machine.execNop arg s
  | .hash arg => Sys2Proof.Machine.execHash arg s
  | .lookup b => Sys2Proof.Machine.execLookup b s
  | .clear arg => Sys2Proof.Machine.execClear arg s

end Sys2Proof.Machine
end

