-- ==== Sys2Proof/Machine/Bus.lean ====
section
/-! DEFINITION. The host's side: the window map, the registers, IBUF transactions, bus errors, CMD
dispatch, and one turn of the host (R40 to R54, R98 to R106). -/

namespace Sys2Proof.Machine

/-- The number of bytes of a transaction (R98). -/
def Size.bytes : Size → Nat
  | .byte => 1
  | .half => 2
  | .word => 4

/-- What a transaction reaches (R42, R50, R51). -/
inductive Region where
  /-- An aligned 4-byte access to the register block, at this offset. -/
  | register (off : Nat)
  /-- An aligned access to IBUF, from this index on. -/
  | buffer (i : Nat)
  /-- A wrong width or alignment: `resp = ERROR` (R106). -/
  | busError
  /-- At or above IBUF_BASE + IN_SIZE (R42). -/
  | outside
  deriving DecidableEq, Repr

/-- The host window map (R42) with its width and alignment rules (R50, R51, R106). -/
def regionOf (inSize : Nat) (off : Word) (size : Size) : Region :=
  if off.toNat < ibufBase then
    if size = .word ∧ off.toNat % 4 = 0 then .register off.toNat else .busError
  else if off.toNat < ibufBase + inSize then
    if (off.toNat - ibufBase) % size.bytes = 0 then .buffer (off.toNat - ibufBase) else .busError
  else .outside

/-- The registers of the map (R24). -/
inductive Reg where
  | cmd
  | status
  | length
  | result
  | lkup
  | config
  | reserved
  deriving DecidableEq, Repr

/-- The register at an offset of the register block (R24, R46). -/
def regAt (off : Nat) : Reg :=
  if off = 0x000 then .cmd
  else if off = 0x004 then .status
  else if off = 0x008 then .length
  else if off = 0x00C then .result
  else if off = 0x010 then .lkup
  else if off = 0x014 then .config
  else .reserved

/-- What a register read returns (R103). -/
def State.readReg (s : State) (r : Reg) : Word :=
  match r with
  | .cmd => 0x00000000#32
  | .status => s.statusWord
  | .length => s.length
  | .result => s.result
  | .lkup => s.lkupWord
  | .config => s.configWord
  | .reserved => 0x00000000#32

/-- CMD dispatch (R99): decode the word, then its command's effect, or an ILLEGAL word's. -/
def dispatchCmd (w : Word) (s : State) : Outcome :=
  match decode w with
  | .ok i => exec i s
  | .error _ => illegalWord s

/-- The effect of a register write (R104). -/
def writeReg (r : Reg) (v : Word) (s : State) : Outcome :=
  match r with
  | .cmd => dispatchCmd v s
  | .status => .next s
  | .length => .next (s.setLength v)
  | .result => .next s
  | .lkup => .next s
  | .config => .next (s.setConfig v)
  | .reserved => .next s

/-- Byte `j` of bus data: `v[8j+7 : 8j]` (R48, R105). -/
def wordByte (v : Word) (j : Nat) : Byte := v.extractLsb' (8 * j) 8

/-- The bytes a write transaction carries, the one for the lowest index first (R48, R105). -/
def writeData (size : Size) (v : Word) : List Byte :=
  match size with
  | .byte => [wordByte v 0]
  | .half => [wordByte v 0, wordByte v 1]
  | .word => [wordByte v 0, wordByte v 1, wordByte v 2, wordByte v 3]

/-- `zext_32({IBUF[i+n-1], ..., IBUF[i]})` (R48, R105). -/
def State.readIbuf (s : State) (i : Nat) (size : Size) : Word :=
  match size with
  | .byte => 0#24 ++ s.ibufByte i
  | .half => 0#16 ++ s.ibufByte (i + 1) ++ s.ibufByte i
  | .word => s.ibufByte (i + 3) ++ s.ibufByte (i + 2) ++ s.ibufByte (i + 1) ++ s.ibufByte i

/-- The OKAY response to a read that returns `v`. -/
def okayRead (v : Word) : BusResponse := ⟨.okay, some v⟩

/-- The OKAY response to a write. -/
def okayWrite : BusResponse := ⟨.okay, none⟩

/-- The bus error response to a read: `rdata = 0` (R106). -/
def errorRead : BusResponse := ⟨.error, some 0x00000000#32⟩

/-- The bus error response to a write (R106). -/
def errorWrite : BusResponse := ⟨.error, none⟩

/-- `MemRead(off, n)` (R103, R105, R106): no side effect but the response (R54). -/
def memRead (off : Word) (size : Size) (s : State) : Outcome :=
  match regionOf s.params.inSize off size with
  | .register o => .next (s.respond (okayRead (s.readReg (regAt o))))
  | .buffer i => .next (s.respond (okayRead (s.readIbuf i size)))
  | .busError => .next (s.respond errorRead)
  | .outside => .refused .outsideWindow

/-- `MemWrite(off, n, v)` (R104, R105, R106). -/
def memWrite (off : Word) (size : Size) (v : Word) (s : State) : Outcome :=
  match regionOf s.params.inSize off size with
  | .register o => writeReg (regAt o) v (s.respond okayWrite)
  | .buffer i => .next ((s.respond okayWrite).writeIbuf i (writeData size v))
  | .busError => .next (s.respond errorWrite)
  | .outside => .refused .outsideWindow

/-- One bus transaction, one atomic step (R53, R98). -/
def transact (t : Txn) (s : State) : Outcome :=
  match t with
  | .read off size => memRead off size s
  | .write off size v => memWrite off size v s

/-- The offset of CMD (R24, R25). -/
def cmdOffset : Word := 0x000#32

/-- One read of the loop `waitidle` (R68): `rd32 STATUS`; the loop ends when the value read has bit 0
(BUSY) = 0, and `rest` is what the host does then. -/
def pollStatus (rest : List HostOp) (s : State) : Outcome :=
  if s.statusWord.getLsbD 0 then .next (s.respond (okayRead s.statusWord))
  else .next ((s.setHost rest).respond (okayRead s.statusWord))

/-- One turn of the host: its next transaction in issue order (R12, R55, R98). A host with nothing left
to do issues none, and nothing changes. -/
def hostStep (s : State) : Outcome :=
  match s.host with
  | [] => .next s
  | .txn t :: rest => transact t (s.setHost rest)
  | .waitIdle :: rest => pollStatus rest s

/-- Put a write of the command word `w` to CMD first in what the host does, and give the host the next
turn: whatever else is pending, the very next step dispatches `w` (R25, R99). -/
def State.issueCommand (s : State) (w : Word) : State :=
  (s.setHost (.txn (.write cmdOffset .word w) :: s.host)).setTurns (.host :: s.turns)

/-- DESIGN CHOICE (log entry 4). Whose turn it is once the given order is used up: the engine's while it is not IDLE, so that a
running HASH takes its remaining steps (R12, R140), else the host's. -/
def defaultTurn (s : State) : Turn := if s.busy then .engine else .host

/-- Whose turn it is: the head of the given order, else `defaultTurn` (R12, R55). -/
def nextTurn (s : State) : Turn :=
  match s.turns with
  | t :: _ => t
  | [] => defaultTurn s

/-- One step of the agent whose turn it is (R12, R126, R128). -/
def takeTurn (t : Turn) (s : State) : Outcome :=
  match t with
  | .host => hostStep s
  | .engine => engineStep s
  | .reset => .next s.resetEvent
  | .powerCycle => .next s.powerCycle

end Sys2Proof.Machine
end

