-- ==== Sys2Proof/Machine/Step.lean ====
section
/-! DEFINITION. One step of the machine: one step of one agent, in the total order of R12 and R55. -/

namespace Sys2Proof.Machine

/-- One step: the agent whose turn it is takes it, and the turn is used up. -/
def step (s : State) : Host.Outcome State Fault Refusal :=
  takeTurn (nextTurn s) (s.setTurns s.turns.tail)

/-- `s` with the command word of the low `nbits` bits of `w` issued: the next transaction of the host is
the write of that word to CMD, and the next turn is the host's. -/
def State.withFetchWord (s : State) (nbits w : Nat) : State :=
  s.issueCommand (BitVec.ofNat 32 (w % 2 ^ nbits))

end Sys2Proof.Machine
end

