-- ==== Sys2Proof/Machine/HostProgram.lean ====
section
/-! DEFINITION. Host programs: their lines, the transactions each line stands for, and the disassembly of
a CMD write (R67 to R70). -/

namespace Sys2Proof.Machine

/-- An offset as a program writes it (R67): a number, a register's name, or `IBUF+i`. -/
inductive Off where
  | num (n : Nat)
  | cmd
  | status
  | length
  | result
  | lkup
  | config
  | ibuf (i : Nat)
  deriving DecidableEq, Repr

/-- The byte offset an `Off` stands for (R24, R67). -/
def Off.value : Off → Nat
  | .num n => n
  | .cmd => 0x000
  | .status => 0x004
  | .length => 0x008
  | .result => 0x00C
  | .lkup => 0x010
  | .config => 0x014
  | .ibuf i => ibufBase + i

/-- A line of a host program (R67), or a pseudo-instruction (R68). Immediates are numbers as written. -/
inductive Line where
  | wr32 (off : Off) (v : Nat)
  | wr16 (off : Off) (v : Nat)
  | wr8 (off : Off) (v : Nat)
  | rd32 (off : Off)
  | rd16 (off : Off)
  | rd8 (off : Off)
  | cmdNop
  | cmdHash
  | cmdClear
  | cmdLookup (b : Nat)
  | hash (n : Nat)
  | lookup (b : Nat)
  | waitidle
  | str (i : Nat) (text : List Char)
  | bytes (i : Nat) (bs : List Nat)
  | cfg (ie la : Nat)
  deriving DecidableEq, Repr

/-- `MemWrite(off, n, v)` as the host's next transaction (R67). -/
def wr (off : Nat) (size : Size) (v : Nat) : HostOp :=
  .txn (.write (BitVec.ofNat 32 off) size (BitVec.ofNat 32 v))

/-- `MemRead(off, n)` as the host's next transaction (R67). -/
def rd (off : Nat) (size : Size) : HostOp := .txn (.read (BitVec.ofNat 32 off) size)

/-- One `wr8` per byte, in order, from IBUF index `i` on (R68). -/
def wr8s (i : Nat) (bs : List Nat) : List HostOp :=
  match bs with
  | [] => []
  | b :: rest => wr (ibufBase + i) .byte b :: wr8s (i + 1) rest

/-- What a line stands for (R67, R68). An offset or immediate wider than 32 bits keeps its low 32 bits (DESIGN
CHOICE, log entry 16). -/
def Line.expand : Line → List HostOp
  | .wr32 off v => [wr off.value .word v]
  | .wr16 off v => [wr off.value .half v]
  | .wr8 off v => [wr off.value .byte v]
  | .rd32 off => [rd off.value .word]
  | .rd16 off => [rd off.value .half]
  | .rd8 off => [rd off.value .byte]
  | .cmdNop => [wr 0x000 .word 0x00000000]
  | .cmdHash => [wr 0x000 .word 0x00000001]
  | .cmdClear => [wr 0x000 .word 0x00000003]
  | .cmdLookup b => [wr 0x000 .word (0x00000002 + b * 256)]
  | .hash n => [wr 0x008 .word n, wr 0x000 .word 0x00000001]
  | .lookup b => [wr 0x000 .word (0x00000002 + b * 256)]
  | .waitidle => [.waitIdle]
  | .str i text => wr8s i (text.map Char.toNat)
  | .bytes i bs => wr8s i bs
  | .cfg ie la => [wr 0x014 .word (la * 2 + ie)]

/-- The transactions of a program, in the order of its lines (R55, R67). -/
def expandProgram (p : List Line) : List HostOp :=
  match p with
  | [] => []
  | l :: rest => l.expand ++ expandProgram rest

/-- A program given to the host: this is how a program comes to run (R129; log entry 5). -/
def State.withProgram (s : State) (p : List Line) : State := s.setHost (expandProgram p)

/-- The check on a line. Ranges the spec gives: a table index is at most 255 (R67), `ie` and `la` are 0 or 1
(R68), a listed byte is a byte (R9), and text stands for ASCII codes (R9). DESIGN CHOICE (log entry 16),
because R67 and R68 give no range: an offset and a 32-bit immediate fit 32 bits, an immediate of `wr16` or
`wr8` fits its transaction. `Line.expand` still gives a wider line a meaning, as R105 does: a transaction
stores the low bytes of its data. -/
def Line.wellFormed : Line → Bool
  | .wr32 off v => decide (off.value < 2 ^ 32) && decide (v < 2 ^ 32)
  | .wr16 off v => decide (off.value < 2 ^ 32) && decide (v < 2 ^ 16)
  | .wr8 off v => decide (off.value < 2 ^ 32) && decide (v < 2 ^ 8)
  | .rd32 off => decide (off.value < 2 ^ 32)
  | .rd16 off => decide (off.value < 2 ^ 32)
  | .rd8 off => decide (off.value < 2 ^ 32)
  | .cmdNop => true
  | .cmdHash => true
  | .cmdClear => true
  | .cmdLookup b => decide (b ≤ 255)
  | .hash n => decide (n < 2 ^ 32)
  | .lookup b => decide (b ≤ 255)
  | .waitidle => true
  | .str i text => decide (ibufBase + i + text.length ≤ 2 ^ 32) && text.all (fun c => decide (c.toNat < 128))
  | .bytes i bs => decide (ibufBase + i + bs.length ≤ 2 ^ 32) && bs.all (fun b => decide (b < 256))
  | .cfg ie la => decide (ie ≤ 1) && decide (la ≤ 1)

/-- A hexadecimal digit, in lower case: R69 leaves the case open (DESIGN CHOICE, log entry 16). -/
def hexDigit (n : Nat) : Char := "0123456789abcdef".toList.getD (n % 16) '0'

/-- A byte as two hexadecimal digits. -/
def hexByte (b : Byte) : List Char := [hexDigit (b.toNat / 16), hexDigit b.toNat]

/-- A word as eight hexadecimal digits. -/
def hexWord (w : Word) : List Char :=
  hexByte (w.extractLsb' 24 8) ++ hexByte (w.extractLsb' 16 8) ++ hexByte (w.extractLsb' 8 8)
    ++ hexByte (w.extractLsb' 0 8)

/-- The comment on a non-canonical word that still decodes (R69). -/
def argComment (a : Byte) : List Char :=
  if a = 0x00#8 then [] else " ; arg=0x".toList ++ hexByte a

/-- The line a disassembler prints for a write of `w` to CMD (R69). -/
def disassemble (w : Word) : List Char :=
  match decode w with
  | .ok (.nop a) => "cmd NOP".toList ++ argComment a
  | .ok (.hash a) => "cmd HASH".toList ++ argComment a
  | .ok (.lookup b) => "cmd LOOKUP 0x".toList ++ hexByte b
  | .ok (.clear a) => "cmd CLEAR".toList ++ argComment a
  | .error _ => "wr32 CMD, 0x".toList ++ hexWord w ++ " ; illegal".toList

end Sys2Proof.Machine
end

