-- ==== Sys2Proof/Machine/Platform.lean ====
section
/-! DEFINITION. A platform of N_INST independent instances (R121): each is a whole machine with its own
window, registers, IBUF, lanes, FSM and host; they share only the constant T. -/

namespace Sys2Proof.Machine

/-- The instances, and the order in which they take the steps to come (DESIGN CHOICE, log entry 9). -/
structure Platform where
  insts    : List State
  schedule : List Nat
  deriving DecidableEq, Repr

/-- N_INST instances after power-on and reset (R7, R121, R128). The number of an instance is an argument
of its IBUF draws only: "no instance identifier register" exists. -/
def Platform.reset (p : Params) : Platform where
  insts := (List.range p.nInst).map (fun k => { State.reset with params := p, instNo := k })
  schedule := []

/-- One step of the platform: one step of the instance whose turn it is. DESIGN CHOICE (log entry 9): when
the schedule is used up no instance steps, not even one whose engine is busy, and the platform stays as it
is. The spec fixes no order of the instances (R121) and assumes a busy engine eventually steps (R12); a
schedule that goes on long enough is how that fairness is expressed here. -/
def Platform.step (p : Platform) : Host.Outcome Platform Fault Refusal :=
  match p.schedule with
  | [] => .next p
  | k :: rest =>
    match p.insts[k]? with
    | none => .next { p with schedule := rest }
    | some s =>
      match Machine.step s with
      | .next s' => .next { insts := p.insts.set k s', schedule := rest }
      | .fault r => .fault r
      | .refused r => .refused r

end Sys2Proof.Machine
end

