-- ==== Sys2Proof/Machine/HashFn.lean ====
section
/-! DEFINITION. The reference function HashFn (R77), "the normative value". The engine does not use it;
R92 says that the two agree. -/

namespace Sys2Proof.Machine

/-- The loop of R77 from index `i` with lanes `L`. The fuel `n` covers it, because "the loop runs at most
n - 1 times". `B` is the byte array and `n` the length. -/
def hashLoop (B : Nat → Byte) (inSize n : Nat) (la : Bool) (fuel i : Nat) (L : Lanes) :
    Except ErrCode Lanes :=
  match fuel with
  | 0 => .ok L
  | fuel + 1 =>
    if i = n then .ok L
    else if B i = 0x00#8 then .ok L
    else if B i = 0x2F#8 then
      if i + 1 < n then
        if B (i + 1) = 0x00#8 then .ok L
        else hashLoop B inSize n la fuel (i + 1) (foldLanes (B i) L)
      else if la then .error .lookAhead
      else if n < inSize then
        if B n = 0x00#8 then .ok L
        else hashLoop B inSize n la fuel (i + 1) (foldLanes (B i) L)
      else .ok L
    else hashLoop B inSize n la fuel (i + 1) (foldLanes (B i) L)

/-- Pack and mask the loop's lanes (R77, last two lines). -/
def hashOut (r : Except ErrCode Lanes) : Except ErrCode Word :=
  match r with
  | .ok L => .ok (pack32 L &&& 0xFFFFFFC0#32)
  | .error c => .error c

/-- `HashFn(B, n, la)` (R77). -/
def hashFn (B : Nat → Byte) (inSize n : Nat) (la : Bool) : Except ErrCode Word :=
  if n < 4 then .error .short
  else if n > 0x7FFFFFFF then .error .size
  else if n > inSize then .error .buffer
  else hashOut (hashLoop B inSize n la n 1 ⟨T (B 0), T (B 1), T (B 2), T (B 3)⟩)

end Sys2Proof.Machine
end

