-- ==== Sys2Proof/WellFormed.lean ====
section
/-! DEFINITION. The checks on terms. The one operand of a command is 8 bits by its type, so EVERY
`Instr` is well formed and has a word (R62); what remains to check is the canonical form an assembler
emits (R66) and the relations the parameters satisfy (R7, R8). The checks on the lines of a host
program (R67, R68) stand with their syntax in Machine/HostProgram.lean. -/

namespace Sys2Proof

/-- Canonical commands (R66): an assembler emits ARG = 0 for NOP, HASH and CLEAR. -/
def Instr.canonical : Instr → Bool
  | .nop a => a == 0
  | .hash a => a == 0
  | .lookup _ => true
  | .clear a => a == 0

/-- The relations on IN_SIZE (R7, R8): SEED_LEN <= IN_SIZE, a multiple of 4, and at most 0x7FFFF000
(so that IBUF_BASE + IN_SIZE <= 2^31 and IN_SIZE <= SIZE_LIMIT). -/
abbrev Params.Valid (p : Params) : Prop :=
  4 ≤ p.inSize ∧ p.inSize % 4 = 0 ∧ p.inSize ≤ 0x7FFFF000

end Sys2Proof
end

