-- ==== Sys2Proof/Safety.lean ====
section
/-! DEFINITION. What counts as a safe state and a safe run, and the words in which claims about a running
HASH are made. -/

namespace Sys2Proof.Machine

/-- The codes ERRCODE can hold (R110): NONE and the five that a command raises. -/
def legalErrCodes : List (BitVec 4) := [0x0#4, 0x1#4, 0x2#4, 0x3#4, 0x4#4, 0x8#4]

/-- LKUP holds its reset value or what a LOOKUP left: DATA = T(INDEX) (R33). -/
def lkupLegal (v : BitVec 16) : Prop := v = 0x0000#16 ∨ v.extractLsb' 0 8 = T (v.extractLsb' 8 8)

/-- THE INVARIANT of the machine. -/
structure State.Inv (s : State) : Prop where
  /-- IN_SIZE is legal (R7, R8). -/
  params_valid  : s.params.Valid
  /-- IBUF's list is canonical and inside IBUF (R43). -/
  ibuf_wf       : Memory.wf s.params.inSize s.ibuf = true
  /-- "RESULT & 0x0000003F == 0 holds in every reachable state" (R32). -/
  result_masked : s.result &&& 0x0000003F#32 = 0#32
  /-- Reserved codes are never produced (R110, U11). -/
  code_legal    : s.errCode ∈ legalErrCodes
  /-- "ERR = 0 implies ERRCODE = 0x0" (R29), and an error always has a code. -/
  err_iff_code  : s.err = false ↔ s.errCode = 0x0#4
  /-- "DONE = 1 implies BUSY = 0" (R131). -/
  done_idle     : s.done = true → s.fsm = .idle
  /-- While a HASH runs no error stands (R29, R78). -/
  busy_no_err   : s.busy = true → s.err = false
  /-- LKUP (R33). -/
  lkup_legal    : lkupLegal s.lkup
  /-- "4 <= LENL <= IN_SIZE holds for the whole HASH" (R81). -/
  busy_len      : s.busy = true → seedLen ≤ s.lenl.toNat ∧ s.lenl.toNat ≤ s.params.inSize
  /-- "While FSM is SCAN, 1 <= IDX <= LENL holds" (R21). -/
  scan_idx      : s.fsm = .scan → 1 ≤ s.idx.toNat ∧ s.idx.toNat ≤ s.lenl.toNat

/-- The host transaction of the coming step, if that step is the host's and it issues one. -/
def nextTxn (s : State) : Option Txn :=
  match nextTurn s, s.host with
  | .host, .txn t :: _ => some t
  | _, _ => none

/-- The offset and the size of a transaction (R98). -/
def Txn.target : Txn → Word × Size
  | .read off size => (off, size)
  | .write off size _ => (off, size)

/-- The transaction lies in the host window (R42): the platform sends the block no other. -/
def Txn.inWindow (inSize : Nat) (t : Txn) : Bool :=
  decide (t.target.1.toNat < ibufBase + inSize)

/-- The IBUF index and the bytes a transaction stores, if it stores to IBUF (R105). -/
def Txn.ibufStore (inSize : Nat) : Txn → Option (Nat × List Byte)
  | .read _ _ => none
  | .write off size v =>
    match regionOf inSize off size with
    | .buffer i => some (i, writeData size v)
    | .register _ => none
    | .busError => none
    | .outside => none

/-- The word a transaction writes to CMD, if it is a CMD write (R25, R99). -/
def Txn.cmdWrite : Txn → Option Word
  | .read _ _ => none
  | .write off size v => if off = cmdOffset ∧ size = .word then some v else none

/-- The command word the coming step writes to CMD, if it writes one. -/
def nextCommand (s : State) : Option Word := (nextTxn s).bind Txn.cmdWrite

/-- The coming step is a reset event: `rst`, or the one that follows power-on (R126, R128). -/
def State.resetsNext (s : State) : Bool := nextTurn s == .reset || nextTurn s == .powerCycle

/-- The coming step is no reset and no power cycle, and stores nothing to IBUF (the premise of R92). -/
def State.quiet (s : State) : Bool :=
  match nextTurn s with
  | .engine => true
  | .reset => false
  | .powerCycle => false
  | .host =>
    match nextTxn s with
    | some t => (t.ibufStore s.params.inSize).isNone
    | none => true

/-- `BusyRun s t`: from `s` to `t` by quiet steps, each taken while a HASH runs. The steps are those of
either agent, in any order (R12, R92). -/
inductive BusyRun : State → State → Prop where
  | refl (s : State) : BusyRun s s
  | step {s s' t : State} (busy : s.busy = true) (quiet : s.quiet = true)
      (next : step s = .next s') (rest : BusyRun s' t) : BusyRun s t

/-- `k` steps of the engine alone. -/
def engineRun (k : Nat) (s : State) : Outcome :=
  match k with
  | 0 => .next s
  | k + 1 =>
    match engineStep s with
    | .next s' => engineRun k s'
    | .fault r => .fault r
    | .refused r => .refused r

/-- A bound on the engine steps a running HASH still takes (R94, R138). -/
def State.stepsLeft (s : State) : Nat :=
  match s.fsm with
  | .idle => 0
  | .seed => s.lenl.toNat + 2
  | .scan => (s.lenl.toNat - s.idx.toNat) + 2
  | .finish => 1

/-- Two lanes hold one value exactly when the bytes of their numbers are one (R95). -/
def Lanes.matchBytes (L : Lanes) (B : Nat → Byte) : Prop :=
  (L.l0 = L.l1 ↔ B 0 = B 1) ∧ (L.l0 = L.l2 ↔ B 0 = B 2) ∧ (L.l0 = L.l3 ↔ B 0 = B 3) ∧
  (L.l1 = L.l2 ↔ B 1 = B 2) ∧ (L.l1 = L.l3 ↔ B 1 = B 3) ∧ (L.l2 = L.l3 ↔ B 2 = B 3)

/-- How often the engine has the next turn in the given order (R12's fairness, made a count). -/
def engineTurns (ts : List Turn) : Nat := ts.countP (fun t => t == .engine)

/-- A HASH accepted in `u` ended in `t` as the outcome `r` of HashFn says (R92): RESULT = v and DONE on
Ok(v); on Err(c) the error c, DONE = 0, and RESULT as it was. -/
def EndedAs (u t : State) (r : Except ErrCode Word) : Prop :=
  match r with
  | .ok v => t.done = true ∧ t.err = false ∧ t.errCode = 0x0#4 ∧ t.result = v
  | .error c => t.done = false ∧ t.err = true ∧ t.errCode = c.code ∧ t.result = u.result

end Sys2Proof.Machine
end

