-- ==== Sys2Proof/Certificates/Slice0/Obligations.lean ====
section
/-! DEFINITION. The statements for the provers. Each docstring names the rule of spec/ it formalises. A
next state is written as the old state with the fields that change, so each such statement is a frame
too. -/

open Sys2Proof Sys2Proof.Machine

/-! ## Encoding (30_encoding.md) -/

/-- Decoding the word of a command gives the command back, ARG at every value (R62, R64). -/
def Obligations.DecodeEncodeRoundTrip : Prop :=
  ∀ i : Instr, decode (encode i) = .ok i

/-- A word that decodes is the word of the command it decodes to, so each word has one meaning (R64). It
gives the word back whole because the constructors of NOP, HASH and CLEAR keep the ARG they ignore: the
model's choice (DESIGN CHOICE, log entry 10), where R64 names plain NOP, HASH and CLEAR, and R66 one canonical
word with ARG = 0 for each. -/
def Obligations.EncodeDecodeRoundTrip : Prop :=
  ∀ (w : Word) (i : Instr), decode w = .ok i → encode i = w

/-- R65: the match and mask pairs select the commands, do not overlap, and leave the ILLEGAL words. -/
def Obligations.MatchMaskRowsSelectTheCommands : Prop :=
  (∀ w : Word,
    (w &&& 0xFFFF00FF#32 = 0x00000000#32 ↔ decode w = .ok (.nop (w.extractLsb' 8 8))) ∧
    (w &&& 0xFFFF00FF#32 = 0x00000001#32 ↔ decode w = .ok (.hash (w.extractLsb' 8 8))) ∧
    (w &&& 0xFFFF00FF#32 = 0x00000002#32 ↔ decode w = .ok (.lookup (w.extractLsb' 8 8))) ∧
    (w &&& 0xFFFF00FF#32 = 0x00000003#32 ↔ decode w = .ok (.clear (w.extractLsb' 8 8))) ∧
    ((∀ r ∈ encodingTable, rowSelects r w = false) ↔ ∃ e, decode w = .error e) ∧
    (∀ r ∈ encodingTable, ∀ r' ∈ encodingTable,
      rowSelects r w = true → rowSelects r' w = true → r = r')) ∧
  encodingTable.map (fun r => (r.mnemonic, r.matchBits, r.mask)) =
    [("NOP", 0x00000000#32, 0xFFFF00FF#32), ("HASH", 0x00000001#32, 0xFFFF00FF#32),
     ("LOOKUP", 0x00000002#32, 0xFFFF00FF#32), ("CLEAR", 0x00000003#32, 0xFFFF00FF#32)] ∧
  encode (.nop 0) = 0x00000000#32 ∧ encode (.hash 0) = 0x00000001#32 ∧
  encode (.lookup 0xFF#8) = 0x0000FF02#32 ∧ encode (.clear 0) = 0x00000003#32

/-- The ILLEGAL words of R64: RSV0 or RSV1 not zero, or OP 0x4 to 0xF; every other word decodes. -/
def Obligations.ReservedFieldsAndOpcodesAreIllegal : Prop :=
  ∀ w : Word, (∃ e, decode w = .error e) ↔
    (w.extractLsb' 4 4 ≠ 0#4 ∨ w.extractLsb' 16 16 ≠ 0#16 ∨ 4 ≤ (w.extractLsb' 0 4).toNat)

/-- Words written out from R60 and R65, and from the vectors K3, Q3, Q7, Q9, Q10, decode as the spec says. -/
def Obligations.WordsOfTheSpecDecode : Prop :=
  decode 0b00000000000000000000000000000000#32 = .ok (.nop 0x00#8) ∧
  decode 0b00000000000000001010101100000000#32 = .ok (.nop 0xAB#8) ∧
  decode 0b00000000000000000000000000000001#32 = .ok (.hash 0x00#8) ∧
  decode 0b00000000000000000010111100000010#32 = .ok (.lookup 0x2F#8) ∧
  decode 0b00000000000000000000000000000011#32 = .ok (.clear 0x00#8) ∧
  decode 0b00000000000000000000000000000100#32 = .error .opcode ∧
  decode 0b00000000000000000000000000010000#32 = .error .rsv0 ∧
  decode 0b00000000000000010000000000000000#32 = .error .rsv1

/-! ## The substitution table (10_state.md section 2, 40_lookup.md) -/

/-- T is a bijection with no fixed point, whose cycles have lengths 5, 13 and 238 (the facts R16 derives
from the table): each byte lies on a cycle of one of these lengths and each length occurs, so, of 256 =
5 + 13 + 238 bytes, on one cycle. The first and last entries are those of R72. -/
def Obligations.TableIsPermutationWithThreeCycles : Prop :=
  (∀ a b : Byte, T a = T b → a = b) ∧ (∀ b : Byte, T b ≠ b) ∧
  (∀ b : Byte, Function.minimalPeriod T b = 5 ∨ Function.minimalPeriod T b = 13 ∨
    Function.minimalPeriod T b = 238) ∧
  (∃ b : Byte, Function.minimalPeriod T b = 5) ∧ (∃ b : Byte, Function.minimalPeriod T b = 13) ∧
  (∃ b : Byte, Function.minimalPeriod T b = 238) ∧
  T 0x00#8 = 0x01#8 ∧ T 0xFF#8 = 0xD1#8

/-! ## Commands -/

/-- R100: NOP completes and changes no state, idle or busy; its words, with an ARG and without. Every other
command can change ERRCODE when idle, and sets REJ when busy. -/
def Obligations.NopChangesNoState : Prop :=
  (∀ (a : Byte) (s : State), exec (.nop a) s = .next s) ∧
  (∀ i : Instr, (∀ a, i ≠ .nop a) →
    (∀ s : State, s.busy = true → exec i s = .next { s with rej := true }) ∧
    ∃ s t : State, s.busy = false ∧ exec i s = .next t ∧ t.errCode ≠ s.errCode) ∧
  encode (.nop 0) = 0x00000000#32 ∧
  (∀ w : Word, w &&& 0xFFFF00FF#32 = 0x00000000#32 ↔ ∃ a, decode w = .ok (.nop a)) ∧
  decode 0x0000AB00#32 = .ok (.nop 0xAB#8) ∧ (∃ e, decode 0x00000010#32 = .error e)

/-- R73: LOOKUP on an idle engine writes LKUP, ERR and ERRCODE and nothing else; on a busy one it is
dropped. LKUP reads back the index and its entry, which is never its reset value; the command takes effect
in the step of its CMD write; with DONE and REJ 0 STATUS then reads 0. -/
def Obligations.LookupReadsOneTableEntry : Prop :=
  (∀ (b : Byte) (s : State), s.busy = false →
    exec (.lookup b) s = .next { s with err := false, errCode := 0x0#4, lkup := b ++ T b }) ∧
  (∀ (b : Byte) (s : State), s.busy = true → exec (.lookup b) s = .next { s with rej := true }) ∧
  (∀ (b : Byte) (s t : State), s.busy = false → exec (.lookup b) s = .next t →
    t.lkupWord = 0#16 ++ b ++ T b ∧
    (s.done = false → s.rej = false → t.statusWord = 0x00000000#32)) ∧
  (∀ (b : Byte) (s : State), memWrite 0x000#32 .word (encode (.lookup b)) s =
    exec (.lookup b) { s with bus := some ⟨.okay, none⟩ }) ∧
  State.reset.lkupWord = 0x00000000#32 ∧ (∀ b : Byte, b ++ T b ≠ 0x0000#16) ∧
  (∀ b : Byte, encode (.lookup b) = 0#16 ++ b ++ 0x02#8) ∧
  (∀ w : Word, w &&& 0xFFFF00FF#32 = 0x00000002#32 ↔
    decode w = .ok (.lookup (w.extractLsb' 8 8))) ∧
  (0#16 ++ 0x00#8 ++ T 0x00#8 : BitVec 32) = 0x00000001#32 ∧
  (0#16 ++ 0xFF#8 ++ T 0xFF#8 : BitVec 32) = 0x0000FFD1#32 ∧
  (0#16 ++ 0x2F#8 ++ T 0x2F#8 : BitVec 32) = 0x00002F1C#32

/-- R101: CLEAR on an idle engine clears DONE, ERR, ERRCODE, REJ, RESULT and LKUP and nothing else, so
STATUS reads 0 and `irq` is 0; on a busy one it is rejected and cannot abort the HASH. No other command
clears REJ. -/
def Obligations.ClearClearsTheResults : Prop :=
  (∀ (a : Byte) (s : State), s.busy = false →
    exec (.clear a) s = .next { s with done := false, err := false, errCode := 0x0#4, rej := false, result := 0x00000000#32, lkup := 0x0000#16 }) ∧
  (∀ (a : Byte) (s t : State), s.busy = false → exec (.clear a) s = .next t →
    t.statusWord = 0x00000000#32 ∧ t.irq = false) ∧
  (∀ (a : Byte) (s : State), s.busy = true → exec (.clear a) s = .next { s with rej := true }) ∧
  (∀ (i : Instr) (s t : State), exec i s = .next t → s.rej = true → t.rej = false →
    ∃ a, i = .clear a) ∧
  encode (.clear 0) = 0x00000003#32 ∧
  (∀ w : Word, w &&& 0xFFFF00FF#32 = 0x00000003#32 ↔ ∃ a, decode w = .ok (.clear a))

/-- The accepting step of HASH (R78) when the length passes its checks: HASH completes with LENGTH and
LA_CHECK latched and the engine in SEED; DONE, ERR and ERRCODE are cleared, nothing else changes. -/
def Obligations.HashLatchesItsOperandsAndStarts : Prop :=
  ∀ (a : Byte) (s : State), s.busy = false → 4 ≤ s.length.toNat → s.length.toNat ≤ 0x7FFFFFFF →
    s.length.toNat ≤ s.params.inSize →
    exec (.hash a) s = .next { s with done := false, err := false, errCode := 0x0#4, lenl := s.length, lal := s.laCheck, fsm := .seed }

/-- R79, R80 (and the check of R81), in the order of R115: a length below 4, above 0x7FFFFFFF or above
IN_SIZE fails in the accepting step with code 0x1, 0x2 or 0x3; the engine stays IDLE, whatever IBUF
holds. A busy engine drops the HASH. -/
def Obligations.HashLengthErrors : Prop :=
  (∀ (a : Byte) (s : State), s.busy = false → s.length.toNat < 4 →
    exec (.hash a) s = .next { s with done := false, err := true, errCode := 0x1#4, fsm := .idle }) ∧
  (∀ (a : Byte) (s : State), s.busy = false → 0x7FFFFFFF < s.length.toNat →
    exec (.hash a) s = .next { s with done := false, err := true, errCode := 0x2#4, fsm := .idle }) ∧
  (∀ s : State, 0x7FFFFFFF < s.length.toNat ↔ s.length.getLsbD 31 = true) ∧
  (∀ (a : Byte) (s : State), s.busy = false → 4 ≤ s.length.toNat → s.length.toNat ≤ 0x7FFFFFFF →
    s.params.inSize < s.length.toNat →
    exec (.hash a) s = .next { s with done := false, err := true, errCode := 0x3#4, fsm := .idle }) ∧
  (∀ (a : Byte) (s : State), s.busy = true → exec (.hash a) s = .next { s with rej := true })

/-- R99: the dispatch of a 4-byte write of `w` to CMD, with the order of its tests; the response is
always OKAY. -/
def Obligations.CmdWriteDispatch : Prop :=
  ∀ (w : Word) (s r : State), r = { s with bus := some ⟨.okay, none⟩ } →
    (∀ a, decode w = .ok (.nop a) → memWrite 0x000#32 .word w s = .next r) ∧
    ((∀ a, decode w ≠ .ok (.nop a)) → s.busy = true →
      memWrite 0x000#32 .word w s = .next { r with rej := true }) ∧
    (s.busy = false →
      (∀ e, decode w = .error e →
        memWrite 0x000#32 .word w s = .next { r with err := true, errCode := 0x8#4, fsm := .idle }) ∧
      (∀ a, decode w = .ok (.hash a) →
        memWrite 0x000#32 .word w s = exec (.hash a) r) ∧
      (∀ b, decode w = .ok (.lookup b) →
        memWrite 0x000#32 .word w s = exec (.lookup b) r) ∧
      (∀ a, decode w = .ok (.clear a) →
        memWrite 0x000#32 .word w s = exec (.clear a) r)) ∧
    (∀ t, memWrite 0x000#32 .word w s = .next t → t.bus = some ⟨.okay, none⟩)

/-- R102: an ILLEGAL word on an idle engine sets ERR and ERRCODE = 0x8 and nothing else; from a clean
idle state STATUS then reads 0x00000084. -/
def Obligations.IllegalWordRaisesIllegalCommand : Prop :=
  (∀ (w : Word) (s : State),
    (w.extractLsb' 4 4 ≠ 0#4 ∨ w.extractLsb' 16 16 ≠ 0#16 ∨ 4 ≤ (w.extractLsb' 0 4).toNat) →
    s.busy = false → dispatchCmd w s = .next { s with err := true, errCode := 0x8#4 }) ∧
  (∀ s t : State, s.fsm = .idle → s.done = false → s.rej = false →
    dispatchCmd 0x00000004#32 s = .next t → t.statusWord = 0x00000084#32)

/-- R116: the error entry writes ERR, ERRCODE and FSM and nothing else, so BUSY is 0 and `irq` rises
exactly when CONFIG.IE = 1; the codes are those of R110. -/
def Obligations.ErrorEntryWritesOnlyErrCodeAndFsm : Prop :=
  (∀ (c : ErrCode) (s : State),
    s.raiseError c = { s with err := true, errCode := c.code, fsm := .idle } ∧
    (s.raiseError c).busy = false ∧ (s.raiseError c).irq = s.ie) ∧
  ErrCode.code .short = 0x1#4 ∧ ErrCode.code .size = 0x2#4 ∧ ErrCode.code .buffer = 0x3#4 ∧
  ErrCode.code .lookAhead = 0x4#4 ∧ ErrCode.code .illegalCmd = 0x8#4

/-! ## Engine steps (41_hash.md) -/

/-- R83: the SEED step. Since IN_SIZE >= 4 it raises no error. -/
def Obligations.SeedStepLoadsTheLanes : Prop :=
  ∀ s : State, s.params.Valid → s.fsm = .seed →
    engineStep s = .next { s with lanes := ⟨T (s.ibufByte 0), T (s.ibufByte 1), T (s.ibufByte 2), T (s.ibufByte 3)⟩, idx := 1#32, fsm := .scan }

/-- R84: a SCAN step at IDX = LENL, or on a terminator, ends the scan and folds nothing. -/
def Obligations.ScanStopsAtLengthOrTerminator : Prop :=
  ∀ s : State, s.Inv → s.fsm = .scan → (s.idx = s.lenl ∨ s.ibufByte s.idx.toNat = 0x00#8) →
    engineStep s = .next { s with fsm := .finish }

/-- R88: a SCAN step that neither R84 nor R85 to R87 ends folds its byte into all four lanes, a separator
before a byte that is not 0 among them, and moves to the next index, which stays at most LENL. -/
def Obligations.ScanFoldsEveryByteThatDoesNotEndIt : Prop :=
  ∀ (s : State) (b : Byte), s.Inv → s.fsm = .scan → s.idx ≠ s.lenl →
    b = s.ibufByte s.idx.toNat → b ≠ 0x00#8 →
    (b = 0x2F#8 → s.ibufByte (s.idx.toNat + 1) ≠ 0x00#8 ∧
      (s.idx.toNat + 1 < s.lenl.toNat ∨ (s.lal = false ∧ s.lenl.toNat < s.params.inSize))) →
    engineStep s = .next { s with lanes := ⟨T (s.lanes.l0 ^^^ b), T (s.lanes.l1 ^^^ b), T (s.lanes.l2 ^^^ b), T (s.lanes.l3 ^^^ b)⟩, idx := s.idx + 1#32 } ∧
    (s.idx + 1#32).toNat = s.idx.toNat + 1 ∧ s.idx.toNat + 1 ≤ s.lenl.toNat

/-- R85 inside the string: a separator directly before a terminator ends the scan unfolded; before any
other byte it is folded like any byte. -/
def Obligations.SeparatorInsideTheString : Prop :=
  ∀ s : State, s.Inv → s.fsm = .scan → s.ibufByte s.idx.toNat = 0x2F#8 →
    s.idx.toNat + 1 < s.lenl.toNat →
    (s.ibufByte (s.idx.toNat + 1) = 0x00#8 → engineStep s = .next { s with fsm := .finish }) ∧
    (s.ibufByte (s.idx.toNat + 1) ≠ 0x00#8 →
      engineStep s = .next { s with lanes := foldLanes 0x2F#8 s.lanes, idx := s.idx + 1#32 })

/-- R86: a separator as the last byte, READ_PAST mode. The look-ahead is IBUF[LENL], or LA_GUARD = 0x00
when the string fills IBUF. -/
def Obligations.ReadPastLooksAtTheByteAfterTheString : Prop :=
  ∀ (s : State) (nx : Byte), s.Inv → s.fsm = .scan → s.ibufByte s.idx.toNat = 0x2F#8 →
    s.idx.toNat + 1 = s.lenl.toNat → s.lal = false →
    nx = (if s.lenl.toNat < s.params.inSize then s.ibufByte s.lenl.toNat else 0x00#8) →
    (nx = 0x00#8 → engineStep s = .next { s with fsm := .finish }) ∧
    (nx ≠ 0x00#8 →
      engineStep s = .next { s with lanes := foldLanes 0x2F#8 s.lanes, idx := s.idx + 1#32 })

/-- R87: a separator as the last byte, CHECKED mode: OutOfBounds code 0x4, no fold, RESULT unchanged,
whatever the byte after the string is; below LENL - 1 a separator raises nothing. -/
def Obligations.CheckedModeRejectsTheLookAheadPastTheString : Prop :=
  (∀ s : State, s.Inv → s.fsm = .scan → s.ibufByte s.idx.toNat = 0x2F#8 →
    s.idx.toNat + 1 = s.lenl.toNat → s.lal = true →
    engineStep s = .next { s with err := true, errCode := 0x4#4, fsm := .idle }) ∧
  (∀ s t : State, s.Inv → s.fsm = .scan → s.ibufByte s.idx.toNat = 0x2F#8 →
    s.idx.toNat + 1 < s.lenl.toNat → s.lal = true → engineStep s = .next t →
    t.err = false ∧ t.errCode = 0x0#4)

/-- R90: FINISH writes the packed and masked lanes to RESULT, sets DONE and returns to IDLE, in one step;
LANE, IDX, LENL and LAL keep their values. -/
def Obligations.FinishPublishesTheKey : Prop :=
  ∀ s : State, s.fsm = .finish →
    engineStep s = .next { s with result := (s.lanes.l3 ++ s.lanes.l2 ++ s.lanes.l1 ++ s.lanes.l0) &&& 0xFFFFFFC0#32, done := true, fsm := .idle }

/-- R89: the packing is little-endian. -/
def Obligations.PackingIsLittleEndian : Prop :=
  ∀ L : Lanes, pack32 L = L.l3 ++ L.l2 ++ L.l1 ++ L.l0 ∧
    pack32 L = L.l0.setWidth 32 ||| L.l1.setWidth 32 <<< 8 ||| L.l2.setWidth 32 <<< 16
      ||| L.l3.setWidth 32 <<< 24

/-- R91: the masker forces bits 5:0 to 0 and passes bits 31:6; only LANE[0] loses bits. -/
def Obligations.MaskerClearsTheLowSixBits : Prop :=
  ∀ L : Lanes,
    maskedKey L = pack32 L &&& 0xFFFFFFC0#32 ∧
    (∀ k < 6, (maskedKey L).getLsbD k = false) ∧
    (∀ k, 6 ≤ k → k < 32 → (maskedKey L).getLsbD k = (pack32 L).getLsbD k) ∧
    (maskedKey L).extractLsb' 8 8 = L.l1 ∧ (maskedKey L).extractLsb' 16 8 = L.l2 ∧
    (maskedKey L).extractLsb' 24 8 = L.l3

/-- R95 (which the spec derives): every fold is injective on a lane, so two lanes are equal exactly when
their seed bytes are: in HashFn's loop; in the block after SEED and every engine step that follows, whether
the HASH goes on, finishes or fails with code 0x4; and through every step of any agent but a reset and the
next SEED. -/
def Obligations.LanesStayEqualExactlyWhenSeedBytesAre : Prop :=
  (∀ (B : Nat → Byte) (inSize n fuel : Nat) (la : Bool) (L : Lanes),
    hashLoop B inSize n la fuel 1 ⟨T (B 0), T (B 1), T (B 2), T (B 3)⟩ = .ok L → L.matchBytes B) ∧
  (∀ (k : Nat) (s t : State), s.fsm = .seed → engineRun (k + 1) s = .next t →
    t.lanes.matchBytes s.ibufByte) ∧
  (∀ (B : Nat → Byte) (s s' : State), step s = .next s' → s.lanes.matchBytes B →
    s.resetsNext = false → ¬ (nextTurn s = .engine ∧ s.fsm = .seed) → s'.lanes.matchBytes B)

/-- R96 (which the spec derives): byte 0 is never tested, and with a terminator at index 1 the key is the
packed seeds, bytes 2 and 3 counted through theirs. -/
def Obligations.TerminatorAtIndexOneGivesThePackedSeeds : Prop :=
  ∀ (B : Nat → Byte) (inSize n : Nat) (la : Bool), 4 ≤ n → n ≤ inSize → n ≤ 0x7FFFFFFF →
    B 1 = 0x00#8 →
    hashFn B inSize n la = .ok ((T (B 3) ++ T (B 2) ++ 0x01#8 ++ T (B 0)) &&& 0xFFFFFFC0#32)

/-- In a state that meets the invariant an engine turn always takes a next state: the engine reads no
index above IN_SIZE (R44) and never stops (R94). When FSM is IDLE it takes no step (R23). -/
def Obligations.EngineNeverFaults : Prop :=
  (∀ s : State, s.Inv → ∃ s', engineStep s = .next s') ∧
  (∀ s : State, s.fsm = .idle → engineStep s = .next s)

/-- R92 (which the spec derives), the engine running alone: an accepted HASH ends, within LENGTH + 2
engine steps, as HashFn says of the buffer at acceptance. -/
def Obligations.HashRunAgreesWithHashFn : Prop :=
  ∀ (a : Byte) (s : State), s.Inv → s.busy = false →
    ∃ u k t, exec (.hash a) s = .next u ∧ k ≤ s.length.toNat + 2 ∧ engineRun k u = .next t ∧
      t.fsm = .idle ∧
      EndedAs s t (hashFn s.ibufByte s.params.inSize s.length.toNat s.laCheck)

/-- R92 under every interleaving: whatever the host does meanwhile, short of a write to IBUF and a reset,
a HASH that ends has the outcome HashFn gives of the buffer at acceptance. -/
def Obligations.HashFnDecidesEveryInterleaving : Prop :=
  ∀ (a : Byte) (s u t : State), s.Inv → s.busy = false → exec (.hash a) s = .next u →
    BusyRun u t → t.fsm = .idle →
    EndedAs s t (hashFn s.ibufByte s.params.inSize s.length.toNat s.laCheck)

/-- R94 (which the spec derives): an accepted HASH takes between 3 and LENL + 2 engine steps, busy before
each of them, and then is IDLE. -/
def Obligations.AcceptedHashTakesThreeToLenlPlusTwoSteps : Prop :=
  ∀ s : State, s.Inv → s.fsm = .seed →
    ∃ k t, 3 ≤ k ∧ k ≤ s.lenl.toNat + 2 ∧ engineRun k s = .next t ∧ t.fsm = .idle ∧
      ∀ j < k, ∃ v, engineRun j s = .next v ∧ v.busy = true

/-- R137 (which the spec derives), for every interleaving: once the engine has had as many turns as
`stepsLeft` says, BUSY has been 0 at some point, whatever the other agents did in their turns. -/
def Obligations.EveryFairRunReachesIdle : Prop :=
  ∀ (n : Nat) (s t : State), s.Inv → n ≤ s.turns.length →
    s.stepsLeft ≤ engineTurns (s.turns.take n) → Host.Core.run Sys2Proof.core n s = .next t →
    ∃ m ≤ n, ∃ v, Host.Core.run Sys2Proof.core m s = .next v ∧ v.busy = false

/-- R137: the loop `waitidle` ends. Stated for the order in which the model lets the engine go first once
no order is given (the model's choice, log entry 4). -/
def Obligations.WaitIdleEnds : Prop :=
  ∀ (s : State) (rest : List HostOp), s.Inv → s.turns = [] → s.host = .waitIdle :: rest →
    ∃ k t, k ≤ s.stepsLeft + 1 ∧ Host.Core.run Sys2Proof.core k s = .next t ∧ t.host = rest ∧
      t.busy = false ∧ t.bus = some ⟨.okay, some t.statusWord⟩

/-- R93 (which the spec derives): the outcome of a HASH is a function of IBUF, LENGTH, LA_CHECK and
IN_SIZE; nothing left over from earlier in STATUS, RESULT, LKUP or the lanes can show in it. -/
def Obligations.HashOutcomeDependsOnlyOnItsOperands : Prop :=
  ∀ (a a' : Byte) (s s' u u' t t' : State) (k k' : Nat), s.Inv → s'.Inv → s.busy = false →
    s'.busy = false → s'.params.inSize = s.params.inSize → s'.length = s.length →
    s'.laCheck = s.laCheck → (∀ i < s.params.inSize, s'.ibufByte i = s.ibufByte i) →
    exec (.hash a) s = .next u → exec (.hash a') s' = .next u' →
    engineRun k u = .next t → engineRun k' u' = .next t' → t.fsm = .idle → t'.fsm = .idle →
    t'.done = t.done ∧ t'.err = t.err ∧ t'.errCode = t.errCode ∧
    (t.done = true → t'.result = t.result)

/-! ## Whole-machine rules -/

/-- Every step keeps the invariant, and no step changes the parameters (R7). -/
def Obligations.EveryStepKeepsTheInvariant : Prop :=
  ∀ s s' : State, s.Inv → step s = .next s' → s'.Inv ∧ s'.params = s.params

/-- The reset state meets the invariant. -/
def Obligations.ResetStateMeetsTheInvariant : Prop := State.reset.Inv

/-- R127: the reset event sets every register, leaves IBUF and what is outside the block, and ends with
STATUS = 0 and `irq` = 0. It is one step, whatever the engine was doing. That the bus outputs keep the last
response is the model's choice (log entry 6). -/
def Obligations.ResetEventSetsEveryRegister : Prop :=
  ∀ s : State,
    s.resetEvent = { s with lanes := ⟨0x00#8, 0x00#8, 0x00#8, 0x00#8⟩, idx := 0#32, lenl := 0#32, lal := false, fsm := .idle, done := false, err := false, rej := false, errCode := 0#4, length := 0#32, result := 0#32, lkup := 0#16, ie := false, laCheck := false } ∧
    s.resetEvent.statusWord = 0x00000000#32 ∧ s.resetEvent.irq = false ∧
    (∀ ts, s.turns = .reset :: ts → step s = .next { s.resetEvent with turns := ts })

/-- R38 and R128: the state after power-on and reset; each byte of IBUF is a draw, then and after every
power cycle. The arguments of the draws
are the model's (DESIGN CHOICE, log entry 2). So are the two things the last clause says of a power cycle
beyond R125 and R128: it is one step, new draws and the reset event together (DEDUCED, log entry 12), and the
bus outputs keep the last response through it (DESIGN CHOICE, log entry 6). -/
def Obligations.PowerOnStateIsResetWithIbufFree : Prop :=
  State.reset.resetEvent = State.reset ∧ State.reset.ibuf = [] ∧ State.reset.irq = false ∧
  State.reset.statusWord = 0x00000000#32 ∧
  (∀ i, State.reset.ibufByte i = Config.powerOnByte 0 0 i) ∧
  (∀ (s : State) (i : Nat),
    s.powerCycle.ibufByte i = Config.powerOnByte s.instNo (s.powerOns + 1) i) ∧
  (∀ s : State, s.powerCycle = { s.resetEvent with ibuf := [], powerOns := s.powerOns + 1 })

/-- R23, the first row: the one event that takes FSM out of IDLE is a CMD write that decodes as HASH with
a length that passes the checks; it goes to SEED with LENGTH and LA_CHECK latched (R22). -/
def Obligations.OnlyAnAcceptedHashLeavesIdle : Prop :=
  ∀ s s' : State, step s = .next s' → s.fsm = .idle → s'.fsm ≠ .idle →
    (∃ w a, nextCommand s = some w ∧ decode w = .ok (.hash a)) ∧
    4 ≤ s.length.toNat ∧ s.length.toNat ≤ 0x7FFFFFFF ∧ s.length.toNat ≤ s.params.inSize ∧
    s'.fsm = .seed ∧ s'.lenl = s.length ∧ s'.lal = s.laCheck

/-- R22: while a HASH runs and goes on running, no step of either agent changes LENL or LAL, whatever the
host writes to LENGTH and CONFIG. -/
def Obligations.RunningHashKeepsItsLatches : Prop :=
  ∀ s s' : State, step s = .next s' → s.busy = true → s'.busy = true →
    s'.lenl = s.lenl ∧ s'.lal = s.lal

/-- R32: only FINISH, CLEAR and reset write RESULT. -/
def Obligations.OnlyFinishClearAndResetWriteResult : Prop :=
  ∀ s s' : State, step s = .next s' →
    s'.result = s.result ∨
    (nextTurn s = .engine ∧ s.fsm = .finish ∧ s'.result = maskedKey s.lanes ∧ s'.done = true) ∨
    (s'.result = 0x00000000#32 ∧ s.busy = false ∧
      ∃ w a, nextCommand s = some w ∧ decode w = .ok (.clear a)) ∨
    (s'.result = 0x00000000#32 ∧ s.resetsNext = true)

/-- R28: DONE becomes 1 only in FINISH, and becomes 0 only by a HASH or a CLEAR accepted while idle, or
by reset. -/
def Obligations.OnlyFinishSetsDone : Prop :=
  ∀ s s' : State, step s = .next s' →
    (s.done = false → s'.done = true → nextTurn s = .engine ∧ s.fsm = .finish) ∧
    (s.done = true → s'.done = false → s.resetsNext = true ∨
      (s.busy = false ∧ ∃ w a, nextCommand s = some w ∧
        (decode w = .ok (.hash a) ∨ decode w = .ok (.clear a))))

/-- R30: REJ is set exactly by a non-NOP word written to CMD while BUSY = 1, which has no other effect,
and stays 1 until a CLEAR or a reset clears it. -/
def Obligations.RejectionIsStickyUntilClearOrReset : Prop :=
  (∀ (s s' : State) (w : Word), step s = .next s' → s.busy = true → nextCommand s = some w →
    (∀ a, decode w ≠ .ok (.nop a)) →
    s' = { s with rej := true, bus := some ⟨.okay, none⟩, host := s.host.tail, turns := s.turns.tail }) ∧
  (∀ s s' : State, step s = .next s' → s.rej = false → s'.rej = true →
    s.busy = true ∧ ∃ w, nextCommand s = some w ∧ ∀ a, decode w ≠ .ok (.nop a)) ∧
  (∀ s s' : State, step s = .next s' → s.rej = true → s'.rej = false →
    s.resetsNext = true ∨
    (s.busy = false ∧ ∃ w a, nextCommand s = some w ∧ decode w = .ok (.clear a)))

/-- R33: only LOOKUP, CLEAR and reset write LKUP. -/
def Obligations.OnlyLookupClearAndResetWriteLkup : Prop :=
  ∀ s s' : State, step s = .next s' →
    s'.lkup = s.lkup ∨ (s'.lkup = 0x0000#16 ∧ s.resetsNext = true) ∨
    (s.busy = false ∧ ∃ w, nextCommand s = some w ∧
      ((∃ b, decode w = .ok (.lookup b) ∧ s'.lkup = b ++ T b) ∨
       (∃ a, decode w = .ok (.clear a) ∧ s'.lkup = 0x0000#16)))

/-- R44, R45: IBUF changes only by a host write to it or by loss of power; no engine step, no command and
no reset changes a byte of it. -/
def Obligations.OnlyHostWritesChangeIbuf : Prop :=
  ∀ s s' : State, step s = .next s' → nextTurn s ≠ .powerCycle →
    ∀ k, s'.ibufByte k ≠ s.ibufByte k →
      ∃ t i vs, nextTxn s = some t ∧ t.ibufStore s.params.inSize = some (i, vs) ∧
        i ≤ k ∧ k < i + vs.length ∧ vs[k - i]? = some (s'.ibufByte k)

/-- R104, R54: LENGTH and CONFIG change only by a host write to their own offset or by reset. -/
def Obligations.OnlyHostWritesChangeLengthAndConfig : Prop :=
  ∀ s s' : State, step s = .next s' →
    (s'.length = s.length ∨ s.resetsNext = true ∨
      nextTxn s = some (.write 0x008#32 .word s'.length)) ∧
    ((s'.ie = s.ie ∧ s'.laCheck = s.laCheck) ∨ s.resetsNext = true ∨
      ∃ v, nextTxn s = some (.write 0x014#32 .word v) ∧ s'.ie = v.getLsbD 0 ∧
        s'.laCheck = v.getLsbD 1)

/-- A step whose host transaction writes a word that decodes runs the decoded command, on the state with
the turn and the transaction used up and the response OKAY driven (R99); a word that does not decode takes
the ILLEGAL path. `withFetchWord`, the model's own device for giving the host a CMD write (DESIGN CHOICE, log
entry 5), makes the next step run the command it is given. -/
def Obligations.StepRunsTheDecodedCommand : Prop :=
  (∀ (s : State) (w : Word) (i : Instr) (ops : List HostOp), nextTurn s = .host →
    s.host = .txn (.write 0x000#32 .word w) :: ops → decode w = .ok i →
    step s = exec i { s with turns := s.turns.tail, host := ops, bus := some ⟨.okay, none⟩ }) ∧
  (∀ (s : State) (w : Word) (e : Illegal) (ops : List HostOp), nextTurn s = .host →
    s.host = .txn (.write 0x000#32 .word w) :: ops → decode w = .error e →
    step s = illegalWord { s with turns := s.turns.tail, host := ops, bus := some ⟨.okay, none⟩ }) ∧
  (∀ (s : State) (i : Instr), step (s.withFetchWord 32 (encode i).toNat) =
    exec i { s with bus := some ⟨.okay, none⟩ })

/-- A step from a state that meets the invariant stops only for a transaction outside the host window
(R42): the machine has no other stop. -/
def Obligations.NoStepStopsInsideTheWindow : Prop :=
  ∀ s : State, s.Inv →
    (∀ t, nextTxn s = some t → t.inWindow s.params.inSize = true) → ∃ s', step s = .next s'

/-! ## The host's bus (42_control.md, 20_memory.md) -/

/-- R103: what an aligned 4-byte read of the register block returns; the state changes in nothing but the
response. -/
def Obligations.RegisterReads : Prop :=
  ∀ s : State,
    memRead 0x000#32 .word s = .next { s with bus := some ⟨.okay, some 0x00000000#32⟩ } ∧
    memRead 0x004#32 .word s = .next { s with bus := some ⟨.okay, some ((BitVec.ofBool s.busy).setWidth 32 + (BitVec.ofBool s.done).setWidth 32 <<< 1 + (BitVec.ofBool s.err).setWidth 32 <<< 2 + (BitVec.ofBool s.rej).setWidth 32 <<< 3 + s.errCode.setWidth 32 <<< 4)⟩ } ∧
    memRead 0x008#32 .word s = .next { s with bus := some ⟨.okay, some s.length⟩ } ∧
    memRead 0x00C#32 .word s = .next { s with bus := some ⟨.okay, some s.result⟩ } ∧
    memRead 0x010#32 .word s = .next { s with bus := some ⟨.okay, some (0#16 ++ s.lkup)⟩ } ∧
    memRead 0x014#32 .word s = .next { s with bus := some ⟨.okay, some ((BitVec.ofBool s.ie).setWidth 32 + (BitVec.ofBool s.laCheck).setWidth 32 <<< 1)⟩ } ∧
    ∀ off : Word, 0x018 ≤ off.toNat → off.toNat ≤ 0xFFC → off.toNat % 4 = 0 →
      memRead off .word s = .next { s with bus := some ⟨.okay, some 0x00000000#32⟩ }

/-- R104: what an aligned 4-byte write in the register block does; reserved bits and read-only registers
ignore it. -/
def Obligations.RegisterWrites : Prop :=
  ∀ (s : State) (v : Word),
    memWrite 0x000#32 .word v s = dispatchCmd v { s with bus := some ⟨.okay, none⟩ } ∧
    memWrite 0x004#32 .word v s = .next { s with bus := some ⟨.okay, none⟩ } ∧
    memWrite 0x008#32 .word v s = .next { s with bus := some ⟨.okay, none⟩, length := v } ∧
    memWrite 0x00C#32 .word v s = .next { s with bus := some ⟨.okay, none⟩ } ∧
    memWrite 0x010#32 .word v s = .next { s with bus := some ⟨.okay, none⟩ } ∧
    memWrite 0x014#32 .word v s = .next { s with bus := some ⟨.okay, none⟩, ie := v.getLsbD 0, laCheck := v.getLsbD 1 } ∧
    ∀ off : Word, 0x018 ≤ off.toNat → off.toNat ≤ 0xFFC → off.toNat % 4 = 0 →
      memWrite off .word v s = .next { s with bus := some ⟨.okay, none⟩ }

/-- R31, R34: LENGTH returns any 32-bit value written to it, CONFIG returns the two writable bits. -/
def Obligations.LengthAndConfigReadBack : Prop :=
  ∀ (s s' : State) (v : Word),
    (memWrite 0x008#32 .word v s = .next s' →
      memRead 0x008#32 .word s' = .next { s' with bus := some ⟨.okay, some v⟩ }) ∧
    (memWrite 0x014#32 .word v s = .next s' →
      memRead 0x014#32 .word s' = .next { s' with bus := some ⟨.okay, some (v &&& 0x00000003#32)⟩ })

/-- R105 with the byte order of R48: an aligned IBUF transaction, in any FSM state. A read returns the
bytes, zero-extended, and changes only the response; a write stores the data's bytes at its indices, and
every other byte of IBUF, every register and every flag stays as it was. -/
def Obligations.IbufTransactionsMoveBytesLittleEndian : Prop :=
  ∀ (s : State) (off : Word) (size : Size) (i : Nat) (v : Word),
    off.toNat = 0x1000 + i → i + size.bytes ≤ s.params.inSize → i % size.bytes = 0 →
    (∃ r, memRead off size s = .next { s with bus := some ⟨.okay, some r⟩ } ∧
      ∀ k < 4, r.extractLsb' (8 * k) 8 =
        if k < size.bytes then s.ibufByte (i + k) else 0x00#8) ∧
    (∃ s', memWrite off size v s = .next s' ∧
      s' = { s with bus := some ⟨.okay, none⟩, ibuf := s'.ibuf } ∧
      ∀ k, s'.ibufByte k =
        if i ≤ k ∧ k < i + size.bytes then v.extractLsb' (8 * (k - i)) 8 else s.ibufByte k)

/-- R49: a host that writes a word and reads it back in bytes, or in words, sees the same
little-endian split. -/
def Obligations.IbufWordReadsBackInBytes : Prop :=
  ∀ (s s' : State) (off : Word) (i k : Nat) (v : Word),
    off.toNat = 0x1000 + i → i + 4 ≤ s.params.inSize → s.params.inSize ≤ 0x7FFFF000 →
    i % 4 = 0 → k < 4 → memWrite off .word v s = .next s' →
    memRead off .word s' = .next { s' with bus := some ⟨.okay, some v⟩ } ∧
    memRead (off + BitVec.ofNat 32 k) .byte s' =
      .next { s' with bus := some ⟨.okay, some (0#24 ++ v.extractLsb' (8 * k) 8)⟩ }

/-- R106: a wrong width or alignment gets `resp = ERROR` and changes no state; a read returns 0. Inside
the window nothing else gets ERROR. -/
def Obligations.BusErrorsChangeNoState : Prop :=
  (∀ (s : State) (off : Word) (size : Size) (v : Word),
    (off.toNat < 0x1000 ∧ (size ≠ .word ∨ off.toNat % 4 ≠ 0)) ∨
      (0x1000 ≤ off.toNat ∧ off.toNat < 0x1000 + s.params.inSize ∧
        (off.toNat - 0x1000) % size.bytes ≠ 0) →
    memRead off size s = .next { s with bus := some ⟨.error, some 0x00000000#32⟩ } ∧
    memWrite off size v s = .next { s with bus := some ⟨.error, none⟩ }) ∧
  (∀ (s : State) (off : Word) (size : Size) (v : Word),
    (off.toNat < 0x1000 ∧ size = .word ∧ off.toNat % 4 = 0) ∨
      (0x1000 ≤ off.toNat ∧ off.toNat < 0x1000 + s.params.inSize ∧
        (off.toNat - 0x1000) % size.bytes = 0) →
    (∃ r, memRead off size s = .next { s with bus := some ⟨.okay, some r⟩ }) ∧
    (∃ s', memWrite off size v s = .next s' ∧ s'.bus = some ⟨.okay, none⟩))

/-- R46: the reserved offsets. An aligned 4-byte access gets OKAY, a read returns 0 and a write changes
nothing; any other access gets the bus error. -/
def Obligations.ReservedOffsetsReadZeroAndIgnoreWrites : Prop :=
  ∀ (s : State) (off : Word) (size : Size) (v : Word), 0x018 ≤ off.toNat → off.toNat ≤ 0xFFF →
    (size = .word → off.toNat % 4 = 0 →
      memRead off size s = .next { s with bus := some ⟨.okay, some 0x00000000#32⟩ } ∧
      memWrite off size v s = .next { s with bus := some ⟨.okay, none⟩ }) ∧
    (size ≠ .word ∨ off.toNat % 4 ≠ 0 →
      memRead off size s = .next { s with bus := some ⟨.error, some 0x00000000#32⟩ } ∧
      memWrite off size v s = .next { s with bus := some ⟨.error, none⟩ })

/-- A transaction at or above IBUF_BASE + IN_SIZE is outside the block (R42): the model refuses it by
name, as U12 says, whether it reads or writes (DEDUCED, log entry 7). -/
def Obligations.OutsideTheWindowIsRefused : Prop :=
  ∀ (s : State) (off : Word) (size : Size) (v : Word), 0x1000 + s.params.inSize ≤ off.toNat →
    memRead off size s = .refused .outsideWindow ∧
    memWrite off size v s = .refused .outsideWindow

/-- R27: BUSY is 1 exactly when FSM is SEED, SCAN or FINISH, and a STATUS read shows it in bit 0. -/
def Obligations.BusyIsDerivedFromFsm : Prop :=
  ∀ s : State,
    (s.busy = true ↔ s.fsm = .seed ∨ s.fsm = .scan ∨ s.fsm = .finish) ∧
    (s.busy = false ↔ s.fsm = .idle) ∧ s.statusWord.getLsbD 0 = s.busy

/-- R35: `irq = CONFIG.IE & (STATUS.DONE | STATUS.ERR)`; nothing else, REJ among it, drives it. -/
def Obligations.IrqIsLevelOfEnabledDoneOrErr : Prop :=
  ∀ s : State,
    (s.irq = true ↔ s.ie = true ∧ (s.done = true ∨ s.err = true)) ∧
    (∀ r : Bool, ({ s with rej := r } : State).irq = s.irq)

/-- `waitidle` (R68): each turn of the host reads STATUS; the loop ends when the value read has BUSY = 0. -/
def Obligations.WaitIdlePollsStatus : Prop :=
  ∀ (s : State) (rest : List HostOp), s.host = .waitIdle :: rest →
    (s.busy = true → hostStep s = .next { s with bus := some ⟨.okay, some s.statusWord⟩ }) ∧
    (s.busy = false →
      hostStep s = .next { s with bus := some ⟨.okay, some s.statusWord⟩, host := rest })

/-- R132, R140 (the part that makes an end state independent of the interleaving): while a HASH runs, a
host transaction that is no CMD write and stores to no IBUF index up to LENL commutes with the engine's
step, but for the value a read returns. -/
def Obligations.HostAndEngineStepsCommute : Prop :=
  ∀ (s s1 s2 : State) (t : Txn), s.Inv → s.busy = true → t.cmdWrite = none →
    (∀ i vs, t.ibufStore s.params.inSize = some (i, vs) → s.lenl.toNat < i) →
    transact t s = .next s1 → engineStep s = .next s2 →
    ∃ s12 s21, engineStep s1 = .next s12 ∧ transact t s2 = .next s21 ∧
      { s12 with bus := none } = { s21 with bus := none }

/-! ## Platform and host programs -/

/-- R121: a step of the platform is a step of one instance; every other instance stays as it was. -/
def Obligations.InstancesDoNotInterfere : Prop :=
  ∀ (p q : Platform) (k : Nat) (rest : List Nat), p.schedule = k :: rest →
    Platform.step p = .next q →
    q.schedule = rest ∧ (∀ j, j ≠ k → q.insts[j]? = p.insts[j]?) ∧
    (∀ s, p.insts[k]? = some s → ∃ s', step s = .next s' ∧ q.insts[k]? = some s')

/-- R67, R68: what each line of a host program stands for, on each kind of offset, and that a program is its
lines' transactions in order. That text stands for its characters' codes is log entry 13 (PRESUMED, on the
spec's word), that `waitidle` is one item of the host's list is log entry 14 (DEDUCED), that a program is
given to the host as such a list is log entry 5 (DESIGN CHOICE), and that a number wider than 32 bits keeps its
low 32 is log entry 16 (DESIGN CHOICE). -/
def Obligations.HostProgramLinesExpand : Prop :=
  (∀ (off : Off) (v : Nat),
    Line.expand (.wr32 off v) = [.txn (.write (BitVec.ofNat 32 off.value) .word (BitVec.ofNat 32 v))] ∧
    Line.expand (.wr16 off v) = [.txn (.write (BitVec.ofNat 32 off.value) .half (BitVec.ofNat 32 v))] ∧
    Line.expand (.wr8 off v) = [.txn (.write (BitVec.ofNat 32 off.value) .byte (BitVec.ofNat 32 v))] ∧
    Line.expand (.rd32 off) = [.txn (.read (BitVec.ofNat 32 off.value) .word)] ∧
    Line.expand (.rd16 off) = [.txn (.read (BitVec.ofNat 32 off.value) .half)] ∧
    Line.expand (.rd8 off) = [.txn (.read (BitVec.ofNat 32 off.value) .byte)]) ∧
  (∀ n, (Off.num n).value = n) ∧ Off.cmd.value = 0x000 ∧ Off.status.value = 0x004 ∧
  Off.length.value = 0x008 ∧ Off.result.value = 0x00C ∧ Off.lkup.value = 0x010 ∧
  Off.config.value = 0x014 ∧ (∀ i, (Off.ibuf i).value = 0x1000 + i) ∧
  Line.expand .cmdNop = [.txn (.write 0x000#32 .word (encode (.nop 0)))] ∧
  Line.expand .cmdHash = [.txn (.write 0x000#32 .word (encode (.hash 0)))] ∧
  Line.expand .cmdClear = [.txn (.write 0x000#32 .word (encode (.clear 0)))] ∧
  (∀ b : Byte, Line.expand (.cmdLookup b.toNat) =
    [.txn (.write 0x000#32 .word (encode (.lookup b)))]) ∧
  (∀ n, Line.expand (.hash n) = Line.expand (.wr32 .length n) ++ Line.expand .cmdHash) ∧
  (∀ b, Line.expand (.lookup b) = Line.expand (.cmdLookup b)) ∧
  Line.expand .waitidle = [.waitIdle] ∧
  (∀ i, Line.expand (.bytes i []) = []) ∧
  (∀ i b bs, Line.expand (.bytes i (b :: bs)) =
    Line.expand (.wr8 (.ibuf i) b) ++ Line.expand (.bytes (i + 1) bs)) ∧
  (∀ i, Line.expand (.str i []) = []) ∧
  (∀ i c cs, Line.expand (.str i (c :: cs)) =
    Line.expand (.wr8 (.ibuf i) c.toNat) ++ Line.expand (.str (i + 1) cs)) ∧
  (∀ ie la, Line.expand (.cfg ie la) = Line.expand (.wr32 .config (la * 2 + ie))) ∧
  (∀ s : State, s.withProgram [] = { s with host := [] }) ∧
  (∀ (s : State) (l : Line) (p : List Line),
    s.withProgram (l :: p) = { s with host := l.expand ++ (s.withProgram p).host })
end

