-- ==== Sys2Proof/Laws/Decode.lean ====
section
/-! SUPPORT. The fields of a command word: a word is its four fields, `encode` puts a command's fields
where R60 has them, and `decode` reads a command exactly from its fields. -/

namespace Sys2Proof

/-- A bit of an encoded command, by the field it lies in (R60). -/
theorem getLsbD_encode (i : Instr) (k : Nat) :
    (encode i).getLsbD k =
      if k < 4 then i.opcode.getLsbD k else if k < 8 then false
      else if k < 16 then i.operand.getLsbD (k - 8) else false := by
  have h : (encode i).getLsbD k =
      (0#16 ++ i.operand ++ 0#4 ++ i.opcode : BitVec (16 + 8 + 4 + 4)).getLsbD k := rfl
  rw [h, BitVec.getLsbD_append, BitVec.getLsbD_append, BitVec.getLsbD_append]
  by_cases h4 : k < 4
  · simp [h4]
  · by_cases h8 : k < 8
    · simp [h4, h8, show k - 4 < 4 by omega]
    · by_cases h16 : k < 16
      · simp [h4, h8, h16, show ¬ k - 4 < 4 by omega, show k - 8 < 8 by omega,
          show k - 4 - 4 = k - 8 by omega]
      · simp [h4, h8, h16, show ¬ k - 4 < 4 by omega, show ¬ k - 4 - 4 < 8 by omega]

theorem opField_encode (i : Instr) : opField (encode i) = i.opcode := by
  apply BitVec.eq_of_getLsbD_eq
  intro k hk
  rw [opField, BitVec.getLsbD_extractLsb', getLsbD_encode]
  simp [hk]

theorem rsv0Field_encode (i : Instr) : rsv0Field (encode i) = 0#4 := by
  apply BitVec.eq_of_getLsbD_eq
  intro k hk
  rw [rsv0Field, BitVec.getLsbD_extractLsb', getLsbD_encode]
  simp [show 4 + k < 8 by omega]

theorem argField_encode (i : Instr) : argField (encode i) = i.operand := by
  apply BitVec.eq_of_getLsbD_eq
  intro k hk
  rw [argField, BitVec.getLsbD_extractLsb', getLsbD_encode]
  simp [hk, show ¬ 8 + k < 4 by omega, show 8 + k < 16 by omega]

theorem rsv1Field_encode (i : Instr) : rsv1Field (encode i) = 0#16 := by
  apply BitVec.eq_of_getLsbD_eq
  intro k hk
  rw [rsv1Field, BitVec.getLsbD_extractLsb', getLsbD_encode]
  simp [show ¬ 16 + k < 4 by omega, show ¬ 16 + k < 8 by omega]

/-- A word is determined by its four fields (R60). -/
theorem word_eq_of_fields {v w : Word} (h0 : opField v = opField w) (h1 : rsv0Field v = rsv0Field w)
    (h2 : argField v = argField w) (h3 : rsv1Field v = rsv1Field w) : v = w := by
  have bit : ∀ {j n : Nat}, v.extractLsb' j n = w.extractLsb' j n → ∀ k, j ≤ k → k < j + n →
      v.getLsbD k = w.getLsbD k := by
    intro j n h k hj hn
    have hk := congrArg (fun x => x.getLsbD (k - j)) h
    simpa [BitVec.getLsbD_extractLsb', show k - j < n by omega, show j + (k - j) = k by omega]
      using hk
  apply BitVec.eq_of_getLsbD_eq
  intro k hk
  by_cases h4 : k < 4
  · exact bit h0 k (by omega) (by omega)
  · by_cases h8 : k < 8
    · exact bit h1 k (by omega) (by omega)
    · by_cases h16 : k < 16
      · exact bit h2 k (by omega) (by omega)
      · exact bit h3 k (by omega) (by omega)

/-- What the decoder reads, by fields (R64). -/
theorem decode_eq_ok_iff (w : Word) (i : Instr) :
    decode w = .ok i ↔
      opField w = i.opcode ∧ rsv0Field w = 0#4 ∧ rsv1Field w = 0#16 ∧ argField w = i.operand := by
  unfold decode
  split
  · simp_all
  · split
    · simp_all
    · rename_i h0 h1
      simp only [ne_eq, Decidable.not_not] at h0 h1
      rw [h0, h1]
      unfold commandOf
      split_ifs <;> cases i <;> simp_all [Instr.opcode, Instr.operand]

end Sys2Proof
end

