-- ==== Sys2Proof/Laws/State.lean ====
section
/-! SUPPORT. One lemma per field per single update of Machine/Ops.lean, so that no later proof unfolds a
record update. -/

namespace Sys2Proof.Machine

variable (s : State)

/-! ### setTurns -/

@[simp] theorem State.setTurns_params (ts : List Turn) : (s.setTurns ts).params = s.params := rfl
@[simp] theorem State.setTurns_lanes (ts : List Turn) : (s.setTurns ts).lanes = s.lanes := rfl
@[simp] theorem State.setTurns_idx (ts : List Turn) : (s.setTurns ts).idx = s.idx := rfl
@[simp] theorem State.setTurns_lenl (ts : List Turn) : (s.setTurns ts).lenl = s.lenl := rfl
@[simp] theorem State.setTurns_lal (ts : List Turn) : (s.setTurns ts).lal = s.lal := rfl
@[simp] theorem State.setTurns_fsm (ts : List Turn) : (s.setTurns ts).fsm = s.fsm := rfl
@[simp] theorem State.setTurns_done (ts : List Turn) : (s.setTurns ts).done = s.done := rfl
@[simp] theorem State.setTurns_err (ts : List Turn) : (s.setTurns ts).err = s.err := rfl
@[simp] theorem State.setTurns_rej (ts : List Turn) : (s.setTurns ts).rej = s.rej := rfl
@[simp] theorem State.setTurns_errCode (ts : List Turn) : (s.setTurns ts).errCode = s.errCode := rfl
@[simp] theorem State.setTurns_length (ts : List Turn) : (s.setTurns ts).length = s.length := rfl
@[simp] theorem State.setTurns_result (ts : List Turn) : (s.setTurns ts).result = s.result := rfl
@[simp] theorem State.setTurns_lkup (ts : List Turn) : (s.setTurns ts).lkup = s.lkup := rfl
@[simp] theorem State.setTurns_ie (ts : List Turn) : (s.setTurns ts).ie = s.ie := rfl
@[simp] theorem State.setTurns_laCheck (ts : List Turn) : (s.setTurns ts).laCheck = s.laCheck := rfl
@[simp] theorem State.setTurns_ibuf (ts : List Turn) : (s.setTurns ts).ibuf = s.ibuf := rfl
@[simp] theorem State.setTurns_instNo (ts : List Turn) : (s.setTurns ts).instNo = s.instNo := rfl
@[simp] theorem State.setTurns_powerOns (ts : List Turn) : (s.setTurns ts).powerOns = s.powerOns := rfl
@[simp] theorem State.setTurns_bus (ts : List Turn) : (s.setTurns ts).bus = s.bus := rfl
@[simp] theorem State.setTurns_host (ts : List Turn) : (s.setTurns ts).host = s.host := rfl
@[simp] theorem State.setTurns_turns (ts : List Turn) : (s.setTurns ts).turns = ts := rfl

/-! ### setHost -/

@[simp] theorem State.setHost_params (ops : List HostOp) : (s.setHost ops).params = s.params := rfl
@[simp] theorem State.setHost_lanes (ops : List HostOp) : (s.setHost ops).lanes = s.lanes := rfl
@[simp] theorem State.setHost_idx (ops : List HostOp) : (s.setHost ops).idx = s.idx := rfl
@[simp] theorem State.setHost_lenl (ops : List HostOp) : (s.setHost ops).lenl = s.lenl := rfl
@[simp] theorem State.setHost_lal (ops : List HostOp) : (s.setHost ops).lal = s.lal := rfl
@[simp] theorem State.setHost_fsm (ops : List HostOp) : (s.setHost ops).fsm = s.fsm := rfl
@[simp] theorem State.setHost_done (ops : List HostOp) : (s.setHost ops).done = s.done := rfl
@[simp] theorem State.setHost_err (ops : List HostOp) : (s.setHost ops).err = s.err := rfl
@[simp] theorem State.setHost_rej (ops : List HostOp) : (s.setHost ops).rej = s.rej := rfl
@[simp] theorem State.setHost_errCode (ops : List HostOp) : (s.setHost ops).errCode = s.errCode := rfl
@[simp] theorem State.setHost_length (ops : List HostOp) : (s.setHost ops).length = s.length := rfl
@[simp] theorem State.setHost_result (ops : List HostOp) : (s.setHost ops).result = s.result := rfl
@[simp] theorem State.setHost_lkup (ops : List HostOp) : (s.setHost ops).lkup = s.lkup := rfl
@[simp] theorem State.setHost_ie (ops : List HostOp) : (s.setHost ops).ie = s.ie := rfl
@[simp] theorem State.setHost_laCheck (ops : List HostOp) : (s.setHost ops).laCheck = s.laCheck := rfl
@[simp] theorem State.setHost_ibuf (ops : List HostOp) : (s.setHost ops).ibuf = s.ibuf := rfl
@[simp] theorem State.setHost_instNo (ops : List HostOp) : (s.setHost ops).instNo = s.instNo := rfl
@[simp] theorem State.setHost_powerOns (ops : List HostOp) : (s.setHost ops).powerOns = s.powerOns := rfl
@[simp] theorem State.setHost_bus (ops : List HostOp) : (s.setHost ops).bus = s.bus := rfl
@[simp] theorem State.setHost_host (ops : List HostOp) : (s.setHost ops).host = ops := rfl
@[simp] theorem State.setHost_turns (ops : List HostOp) : (s.setHost ops).turns = s.turns := rfl

/-! ### respond -/

@[simp] theorem State.respond_params (r : BusResponse) : (s.respond r).params = s.params := rfl
@[simp] theorem State.respond_lanes (r : BusResponse) : (s.respond r).lanes = s.lanes := rfl
@[simp] theorem State.respond_idx (r : BusResponse) : (s.respond r).idx = s.idx := rfl
@[simp] theorem State.respond_lenl (r : BusResponse) : (s.respond r).lenl = s.lenl := rfl
@[simp] theorem State.respond_lal (r : BusResponse) : (s.respond r).lal = s.lal := rfl
@[simp] theorem State.respond_fsm (r : BusResponse) : (s.respond r).fsm = s.fsm := rfl
@[simp] theorem State.respond_done (r : BusResponse) : (s.respond r).done = s.done := rfl
@[simp] theorem State.respond_err (r : BusResponse) : (s.respond r).err = s.err := rfl
@[simp] theorem State.respond_rej (r : BusResponse) : (s.respond r).rej = s.rej := rfl
@[simp] theorem State.respond_errCode (r : BusResponse) : (s.respond r).errCode = s.errCode := rfl
@[simp] theorem State.respond_length (r : BusResponse) : (s.respond r).length = s.length := rfl
@[simp] theorem State.respond_result (r : BusResponse) : (s.respond r).result = s.result := rfl
@[simp] theorem State.respond_lkup (r : BusResponse) : (s.respond r).lkup = s.lkup := rfl
@[simp] theorem State.respond_ie (r : BusResponse) : (s.respond r).ie = s.ie := rfl
@[simp] theorem State.respond_laCheck (r : BusResponse) : (s.respond r).laCheck = s.laCheck := rfl
@[simp] theorem State.respond_ibuf (r : BusResponse) : (s.respond r).ibuf = s.ibuf := rfl
@[simp] theorem State.respond_instNo (r : BusResponse) : (s.respond r).instNo = s.instNo := rfl
@[simp] theorem State.respond_powerOns (r : BusResponse) : (s.respond r).powerOns = s.powerOns := rfl
@[simp] theorem State.respond_bus (r : BusResponse) : (s.respond r).bus = some r := rfl
@[simp] theorem State.respond_host (r : BusResponse) : (s.respond r).host = s.host := rfl
@[simp] theorem State.respond_turns (r : BusResponse) : (s.respond r).turns = s.turns := rfl

/-! ### setLength -/

@[simp] theorem State.setLength_params (v : Word) : (s.setLength v).params = s.params := rfl
@[simp] theorem State.setLength_lanes (v : Word) : (s.setLength v).lanes = s.lanes := rfl
@[simp] theorem State.setLength_idx (v : Word) : (s.setLength v).idx = s.idx := rfl
@[simp] theorem State.setLength_lenl (v : Word) : (s.setLength v).lenl = s.lenl := rfl
@[simp] theorem State.setLength_lal (v : Word) : (s.setLength v).lal = s.lal := rfl
@[simp] theorem State.setLength_fsm (v : Word) : (s.setLength v).fsm = s.fsm := rfl
@[simp] theorem State.setLength_done (v : Word) : (s.setLength v).done = s.done := rfl
@[simp] theorem State.setLength_err (v : Word) : (s.setLength v).err = s.err := rfl
@[simp] theorem State.setLength_rej (v : Word) : (s.setLength v).rej = s.rej := rfl
@[simp] theorem State.setLength_errCode (v : Word) : (s.setLength v).errCode = s.errCode := rfl
@[simp] theorem State.setLength_length (v : Word) : (s.setLength v).length = v := rfl
@[simp] theorem State.setLength_result (v : Word) : (s.setLength v).result = s.result := rfl
@[simp] theorem State.setLength_lkup (v : Word) : (s.setLength v).lkup = s.lkup := rfl
@[simp] theorem State.setLength_ie (v : Word) : (s.setLength v).ie = s.ie := rfl
@[simp] theorem State.setLength_laCheck (v : Word) : (s.setLength v).laCheck = s.laCheck := rfl
@[simp] theorem State.setLength_ibuf (v : Word) : (s.setLength v).ibuf = s.ibuf := rfl
@[simp] theorem State.setLength_instNo (v : Word) : (s.setLength v).instNo = s.instNo := rfl
@[simp] theorem State.setLength_powerOns (v : Word) : (s.setLength v).powerOns = s.powerOns := rfl
@[simp] theorem State.setLength_bus (v : Word) : (s.setLength v).bus = s.bus := rfl
@[simp] theorem State.setLength_host (v : Word) : (s.setLength v).host = s.host := rfl
@[simp] theorem State.setLength_turns (v : Word) : (s.setLength v).turns = s.turns := rfl

/-! ### setConfig -/

@[simp] theorem State.setConfig_params (v : Word) : (s.setConfig v).params = s.params := rfl
@[simp] theorem State.setConfig_lanes (v : Word) : (s.setConfig v).lanes = s.lanes := rfl
@[simp] theorem State.setConfig_idx (v : Word) : (s.setConfig v).idx = s.idx := rfl
@[simp] theorem State.setConfig_lenl (v : Word) : (s.setConfig v).lenl = s.lenl := rfl
@[simp] theorem State.setConfig_lal (v : Word) : (s.setConfig v).lal = s.lal := rfl
@[simp] theorem State.setConfig_fsm (v : Word) : (s.setConfig v).fsm = s.fsm := rfl
@[simp] theorem State.setConfig_done (v : Word) : (s.setConfig v).done = s.done := rfl
@[simp] theorem State.setConfig_err (v : Word) : (s.setConfig v).err = s.err := rfl
@[simp] theorem State.setConfig_rej (v : Word) : (s.setConfig v).rej = s.rej := rfl
@[simp] theorem State.setConfig_errCode (v : Word) : (s.setConfig v).errCode = s.errCode := rfl
@[simp] theorem State.setConfig_length (v : Word) : (s.setConfig v).length = s.length := rfl
@[simp] theorem State.setConfig_result (v : Word) : (s.setConfig v).result = s.result := rfl
@[simp] theorem State.setConfig_lkup (v : Word) : (s.setConfig v).lkup = s.lkup := rfl
@[simp] theorem State.setConfig_ie (v : Word) : (s.setConfig v).ie = v.getLsbD 0 := rfl
@[simp] theorem State.setConfig_laCheck (v : Word) : (s.setConfig v).laCheck = v.getLsbD 1 := rfl
@[simp] theorem State.setConfig_ibuf (v : Word) : (s.setConfig v).ibuf = s.ibuf := rfl
@[simp] theorem State.setConfig_instNo (v : Word) : (s.setConfig v).instNo = s.instNo := rfl
@[simp] theorem State.setConfig_powerOns (v : Word) : (s.setConfig v).powerOns = s.powerOns := rfl
@[simp] theorem State.setConfig_bus (v : Word) : (s.setConfig v).bus = s.bus := rfl
@[simp] theorem State.setConfig_host (v : Word) : (s.setConfig v).host = s.host := rfl
@[simp] theorem State.setConfig_turns (v : Word) : (s.setConfig v).turns = s.turns := rfl

/-! ### writeIbuf -/

@[simp] theorem State.writeIbuf_params (i : Nat) (vs : List Byte) : (s.writeIbuf i vs).params = s.params := rfl
@[simp] theorem State.writeIbuf_lanes (i : Nat) (vs : List Byte) : (s.writeIbuf i vs).lanes = s.lanes := rfl
@[simp] theorem State.writeIbuf_idx (i : Nat) (vs : List Byte) : (s.writeIbuf i vs).idx = s.idx := rfl
@[simp] theorem State.writeIbuf_lenl (i : Nat) (vs : List Byte) : (s.writeIbuf i vs).lenl = s.lenl := rfl
@[simp] theorem State.writeIbuf_lal (i : Nat) (vs : List Byte) : (s.writeIbuf i vs).lal = s.lal := rfl
@[simp] theorem State.writeIbuf_fsm (i : Nat) (vs : List Byte) : (s.writeIbuf i vs).fsm = s.fsm := rfl
@[simp] theorem State.writeIbuf_done (i : Nat) (vs : List Byte) : (s.writeIbuf i vs).done = s.done := rfl
@[simp] theorem State.writeIbuf_err (i : Nat) (vs : List Byte) : (s.writeIbuf i vs).err = s.err := rfl
@[simp] theorem State.writeIbuf_rej (i : Nat) (vs : List Byte) : (s.writeIbuf i vs).rej = s.rej := rfl
@[simp] theorem State.writeIbuf_errCode (i : Nat) (vs : List Byte) : (s.writeIbuf i vs).errCode = s.errCode := rfl
@[simp] theorem State.writeIbuf_length (i : Nat) (vs : List Byte) : (s.writeIbuf i vs).length = s.length := rfl
@[simp] theorem State.writeIbuf_result (i : Nat) (vs : List Byte) : (s.writeIbuf i vs).result = s.result := rfl
@[simp] theorem State.writeIbuf_lkup (i : Nat) (vs : List Byte) : (s.writeIbuf i vs).lkup = s.lkup := rfl
@[simp] theorem State.writeIbuf_ie (i : Nat) (vs : List Byte) : (s.writeIbuf i vs).ie = s.ie := rfl
@[simp] theorem State.writeIbuf_laCheck (i : Nat) (vs : List Byte) : (s.writeIbuf i vs).laCheck = s.laCheck := rfl
@[simp] theorem State.writeIbuf_ibuf (i : Nat) (vs : List Byte) : (s.writeIbuf i vs).ibuf = Memory.writeBytes s.ibuf i vs := rfl
@[simp] theorem State.writeIbuf_instNo (i : Nat) (vs : List Byte) : (s.writeIbuf i vs).instNo = s.instNo := rfl
@[simp] theorem State.writeIbuf_powerOns (i : Nat) (vs : List Byte) : (s.writeIbuf i vs).powerOns = s.powerOns := rfl
@[simp] theorem State.writeIbuf_bus (i : Nat) (vs : List Byte) : (s.writeIbuf i vs).bus = s.bus := rfl
@[simp] theorem State.writeIbuf_host (i : Nat) (vs : List Byte) : (s.writeIbuf i vs).host = s.host := rfl
@[simp] theorem State.writeIbuf_turns (i : Nat) (vs : List Byte) : (s.writeIbuf i vs).turns = s.turns := rfl

/-! ### beginCommand -/

@[simp] theorem State.beginCommand_params : (s.beginCommand).params = s.params := rfl
@[simp] theorem State.beginCommand_lanes : (s.beginCommand).lanes = s.lanes := rfl
@[simp] theorem State.beginCommand_idx : (s.beginCommand).idx = s.idx := rfl
@[simp] theorem State.beginCommand_lenl : (s.beginCommand).lenl = s.lenl := rfl
@[simp] theorem State.beginCommand_lal : (s.beginCommand).lal = s.lal := rfl
@[simp] theorem State.beginCommand_fsm : (s.beginCommand).fsm = s.fsm := rfl
@[simp] theorem State.beginCommand_done : (s.beginCommand).done = s.done := rfl
@[simp] theorem State.beginCommand_err : (s.beginCommand).err = false := rfl
@[simp] theorem State.beginCommand_rej : (s.beginCommand).rej = s.rej := rfl
@[simp] theorem State.beginCommand_errCode : (s.beginCommand).errCode = 0x0#4 := rfl
@[simp] theorem State.beginCommand_length : (s.beginCommand).length = s.length := rfl
@[simp] theorem State.beginCommand_result : (s.beginCommand).result = s.result := rfl
@[simp] theorem State.beginCommand_lkup : (s.beginCommand).lkup = s.lkup := rfl
@[simp] theorem State.beginCommand_ie : (s.beginCommand).ie = s.ie := rfl
@[simp] theorem State.beginCommand_laCheck : (s.beginCommand).laCheck = s.laCheck := rfl
@[simp] theorem State.beginCommand_ibuf : (s.beginCommand).ibuf = s.ibuf := rfl
@[simp] theorem State.beginCommand_instNo : (s.beginCommand).instNo = s.instNo := rfl
@[simp] theorem State.beginCommand_powerOns : (s.beginCommand).powerOns = s.powerOns := rfl
@[simp] theorem State.beginCommand_bus : (s.beginCommand).bus = s.bus := rfl
@[simp] theorem State.beginCommand_host : (s.beginCommand).host = s.host := rfl
@[simp] theorem State.beginCommand_turns : (s.beginCommand).turns = s.turns := rfl

/-! ### clearDone -/

@[simp] theorem State.clearDone_params : (s.clearDone).params = s.params := rfl
@[simp] theorem State.clearDone_lanes : (s.clearDone).lanes = s.lanes := rfl
@[simp] theorem State.clearDone_idx : (s.clearDone).idx = s.idx := rfl
@[simp] theorem State.clearDone_lenl : (s.clearDone).lenl = s.lenl := rfl
@[simp] theorem State.clearDone_lal : (s.clearDone).lal = s.lal := rfl
@[simp] theorem State.clearDone_fsm : (s.clearDone).fsm = s.fsm := rfl
@[simp] theorem State.clearDone_done : (s.clearDone).done = false := rfl
@[simp] theorem State.clearDone_err : (s.clearDone).err = s.err := rfl
@[simp] theorem State.clearDone_rej : (s.clearDone).rej = s.rej := rfl
@[simp] theorem State.clearDone_errCode : (s.clearDone).errCode = s.errCode := rfl
@[simp] theorem State.clearDone_length : (s.clearDone).length = s.length := rfl
@[simp] theorem State.clearDone_result : (s.clearDone).result = s.result := rfl
@[simp] theorem State.clearDone_lkup : (s.clearDone).lkup = s.lkup := rfl
@[simp] theorem State.clearDone_ie : (s.clearDone).ie = s.ie := rfl
@[simp] theorem State.clearDone_laCheck : (s.clearDone).laCheck = s.laCheck := rfl
@[simp] theorem State.clearDone_ibuf : (s.clearDone).ibuf = s.ibuf := rfl
@[simp] theorem State.clearDone_instNo : (s.clearDone).instNo = s.instNo := rfl
@[simp] theorem State.clearDone_powerOns : (s.clearDone).powerOns = s.powerOns := rfl
@[simp] theorem State.clearDone_bus : (s.clearDone).bus = s.bus := rfl
@[simp] theorem State.clearDone_host : (s.clearDone).host = s.host := rfl
@[simp] theorem State.clearDone_turns : (s.clearDone).turns = s.turns := rfl

/-! ### reject -/

@[simp] theorem State.reject_params : (s.reject).params = s.params := rfl
@[simp] theorem State.reject_lanes : (s.reject).lanes = s.lanes := rfl
@[simp] theorem State.reject_idx : (s.reject).idx = s.idx := rfl
@[simp] theorem State.reject_lenl : (s.reject).lenl = s.lenl := rfl
@[simp] theorem State.reject_lal : (s.reject).lal = s.lal := rfl
@[simp] theorem State.reject_fsm : (s.reject).fsm = s.fsm := rfl
@[simp] theorem State.reject_done : (s.reject).done = s.done := rfl
@[simp] theorem State.reject_err : (s.reject).err = s.err := rfl
@[simp] theorem State.reject_rej : (s.reject).rej = true := rfl
@[simp] theorem State.reject_errCode : (s.reject).errCode = s.errCode := rfl
@[simp] theorem State.reject_length : (s.reject).length = s.length := rfl
@[simp] theorem State.reject_result : (s.reject).result = s.result := rfl
@[simp] theorem State.reject_lkup : (s.reject).lkup = s.lkup := rfl
@[simp] theorem State.reject_ie : (s.reject).ie = s.ie := rfl
@[simp] theorem State.reject_laCheck : (s.reject).laCheck = s.laCheck := rfl
@[simp] theorem State.reject_ibuf : (s.reject).ibuf = s.ibuf := rfl
@[simp] theorem State.reject_instNo : (s.reject).instNo = s.instNo := rfl
@[simp] theorem State.reject_powerOns : (s.reject).powerOns = s.powerOns := rfl
@[simp] theorem State.reject_bus : (s.reject).bus = s.bus := rfl
@[simp] theorem State.reject_host : (s.reject).host = s.host := rfl
@[simp] theorem State.reject_turns : (s.reject).turns = s.turns := rfl

/-! ### setLkup -/

@[simp] theorem State.setLkup_params (v : BitVec 16) : (s.setLkup v).params = s.params := rfl
@[simp] theorem State.setLkup_lanes (v : BitVec 16) : (s.setLkup v).lanes = s.lanes := rfl
@[simp] theorem State.setLkup_idx (v : BitVec 16) : (s.setLkup v).idx = s.idx := rfl
@[simp] theorem State.setLkup_lenl (v : BitVec 16) : (s.setLkup v).lenl = s.lenl := rfl
@[simp] theorem State.setLkup_lal (v : BitVec 16) : (s.setLkup v).lal = s.lal := rfl
@[simp] theorem State.setLkup_fsm (v : BitVec 16) : (s.setLkup v).fsm = s.fsm := rfl
@[simp] theorem State.setLkup_done (v : BitVec 16) : (s.setLkup v).done = s.done := rfl
@[simp] theorem State.setLkup_err (v : BitVec 16) : (s.setLkup v).err = s.err := rfl
@[simp] theorem State.setLkup_rej (v : BitVec 16) : (s.setLkup v).rej = s.rej := rfl
@[simp] theorem State.setLkup_errCode (v : BitVec 16) : (s.setLkup v).errCode = s.errCode := rfl
@[simp] theorem State.setLkup_length (v : BitVec 16) : (s.setLkup v).length = s.length := rfl
@[simp] theorem State.setLkup_result (v : BitVec 16) : (s.setLkup v).result = s.result := rfl
@[simp] theorem State.setLkup_lkup (v : BitVec 16) : (s.setLkup v).lkup = v := rfl
@[simp] theorem State.setLkup_ie (v : BitVec 16) : (s.setLkup v).ie = s.ie := rfl
@[simp] theorem State.setLkup_laCheck (v : BitVec 16) : (s.setLkup v).laCheck = s.laCheck := rfl
@[simp] theorem State.setLkup_ibuf (v : BitVec 16) : (s.setLkup v).ibuf = s.ibuf := rfl
@[simp] theorem State.setLkup_instNo (v : BitVec 16) : (s.setLkup v).instNo = s.instNo := rfl
@[simp] theorem State.setLkup_powerOns (v : BitVec 16) : (s.setLkup v).powerOns = s.powerOns := rfl
@[simp] theorem State.setLkup_bus (v : BitVec 16) : (s.setLkup v).bus = s.bus := rfl
@[simp] theorem State.setLkup_host (v : BitVec 16) : (s.setLkup v).host = s.host := rfl
@[simp] theorem State.setLkup_turns (v : BitVec 16) : (s.setLkup v).turns = s.turns := rfl

/-! ### clearResults -/

@[simp] theorem State.clearResults_params : (s.clearResults).params = s.params := rfl
@[simp] theorem State.clearResults_lanes : (s.clearResults).lanes = s.lanes := rfl
@[simp] theorem State.clearResults_idx : (s.clearResults).idx = s.idx := rfl
@[simp] theorem State.clearResults_lenl : (s.clearResults).lenl = s.lenl := rfl
@[simp] theorem State.clearResults_lal : (s.clearResults).lal = s.lal := rfl
@[simp] theorem State.clearResults_fsm : (s.clearResults).fsm = s.fsm := rfl
@[simp] theorem State.clearResults_done : (s.clearResults).done = false := rfl
@[simp] theorem State.clearResults_err : (s.clearResults).err = false := rfl
@[simp] theorem State.clearResults_rej : (s.clearResults).rej = false := rfl
@[simp] theorem State.clearResults_errCode : (s.clearResults).errCode = 0x0#4 := rfl
@[simp] theorem State.clearResults_length : (s.clearResults).length = s.length := rfl
@[simp] theorem State.clearResults_result : (s.clearResults).result = 0x00000000#32 := rfl
@[simp] theorem State.clearResults_lkup : (s.clearResults).lkup = 0x0000#16 := rfl
@[simp] theorem State.clearResults_ie : (s.clearResults).ie = s.ie := rfl
@[simp] theorem State.clearResults_laCheck : (s.clearResults).laCheck = s.laCheck := rfl
@[simp] theorem State.clearResults_ibuf : (s.clearResults).ibuf = s.ibuf := rfl
@[simp] theorem State.clearResults_instNo : (s.clearResults).instNo = s.instNo := rfl
@[simp] theorem State.clearResults_powerOns : (s.clearResults).powerOns = s.powerOns := rfl
@[simp] theorem State.clearResults_bus : (s.clearResults).bus = s.bus := rfl
@[simp] theorem State.clearResults_host : (s.clearResults).host = s.host := rfl
@[simp] theorem State.clearResults_turns : (s.clearResults).turns = s.turns := rfl

/-! ### latchHash -/

@[simp] theorem State.latchHash_params : (s.latchHash).params = s.params := rfl
@[simp] theorem State.latchHash_lanes : (s.latchHash).lanes = s.lanes := rfl
@[simp] theorem State.latchHash_idx : (s.latchHash).idx = s.idx := rfl
@[simp] theorem State.latchHash_lenl : (s.latchHash).lenl = s.length := rfl
@[simp] theorem State.latchHash_lal : (s.latchHash).lal = s.laCheck := rfl
@[simp] theorem State.latchHash_fsm : (s.latchHash).fsm = .seed := rfl
@[simp] theorem State.latchHash_done : (s.latchHash).done = s.done := rfl
@[simp] theorem State.latchHash_err : (s.latchHash).err = s.err := rfl
@[simp] theorem State.latchHash_rej : (s.latchHash).rej = s.rej := rfl
@[simp] theorem State.latchHash_errCode : (s.latchHash).errCode = s.errCode := rfl
@[simp] theorem State.latchHash_length : (s.latchHash).length = s.length := rfl
@[simp] theorem State.latchHash_result : (s.latchHash).result = s.result := rfl
@[simp] theorem State.latchHash_lkup : (s.latchHash).lkup = s.lkup := rfl
@[simp] theorem State.latchHash_ie : (s.latchHash).ie = s.ie := rfl
@[simp] theorem State.latchHash_laCheck : (s.latchHash).laCheck = s.laCheck := rfl
@[simp] theorem State.latchHash_ibuf : (s.latchHash).ibuf = s.ibuf := rfl
@[simp] theorem State.latchHash_instNo : (s.latchHash).instNo = s.instNo := rfl
@[simp] theorem State.latchHash_powerOns : (s.latchHash).powerOns = s.powerOns := rfl
@[simp] theorem State.latchHash_bus : (s.latchHash).bus = s.bus := rfl
@[simp] theorem State.latchHash_host : (s.latchHash).host = s.host := rfl
@[simp] theorem State.latchHash_turns : (s.latchHash).turns = s.turns := rfl

/-! ### startScan -/

@[simp] theorem State.startScan_params (L : Lanes) : (s.startScan L).params = s.params := rfl
@[simp] theorem State.startScan_lanes (L : Lanes) : (s.startScan L).lanes = L := rfl
@[simp] theorem State.startScan_idx (L : Lanes) : (s.startScan L).idx = scanStart := rfl
@[simp] theorem State.startScan_lenl (L : Lanes) : (s.startScan L).lenl = s.lenl := rfl
@[simp] theorem State.startScan_lal (L : Lanes) : (s.startScan L).lal = s.lal := rfl
@[simp] theorem State.startScan_fsm (L : Lanes) : (s.startScan L).fsm = .scan := rfl
@[simp] theorem State.startScan_done (L : Lanes) : (s.startScan L).done = s.done := rfl
@[simp] theorem State.startScan_err (L : Lanes) : (s.startScan L).err = s.err := rfl
@[simp] theorem State.startScan_rej (L : Lanes) : (s.startScan L).rej = s.rej := rfl
@[simp] theorem State.startScan_errCode (L : Lanes) : (s.startScan L).errCode = s.errCode := rfl
@[simp] theorem State.startScan_length (L : Lanes) : (s.startScan L).length = s.length := rfl
@[simp] theorem State.startScan_result (L : Lanes) : (s.startScan L).result = s.result := rfl
@[simp] theorem State.startScan_lkup (L : Lanes) : (s.startScan L).lkup = s.lkup := rfl
@[simp] theorem State.startScan_ie (L : Lanes) : (s.startScan L).ie = s.ie := rfl
@[simp] theorem State.startScan_laCheck (L : Lanes) : (s.startScan L).laCheck = s.laCheck := rfl
@[simp] theorem State.startScan_ibuf (L : Lanes) : (s.startScan L).ibuf = s.ibuf := rfl
@[simp] theorem State.startScan_instNo (L : Lanes) : (s.startScan L).instNo = s.instNo := rfl
@[simp] theorem State.startScan_powerOns (L : Lanes) : (s.startScan L).powerOns = s.powerOns := rfl
@[simp] theorem State.startScan_bus (L : Lanes) : (s.startScan L).bus = s.bus := rfl
@[simp] theorem State.startScan_host (L : Lanes) : (s.startScan L).host = s.host := rfl
@[simp] theorem State.startScan_turns (L : Lanes) : (s.startScan L).turns = s.turns := rfl

/-! ### endScan -/

@[simp] theorem State.endScan_params : (s.endScan).params = s.params := rfl
@[simp] theorem State.endScan_lanes : (s.endScan).lanes = s.lanes := rfl
@[simp] theorem State.endScan_idx : (s.endScan).idx = s.idx := rfl
@[simp] theorem State.endScan_lenl : (s.endScan).lenl = s.lenl := rfl
@[simp] theorem State.endScan_lal : (s.endScan).lal = s.lal := rfl
@[simp] theorem State.endScan_fsm : (s.endScan).fsm = .finish := rfl
@[simp] theorem State.endScan_done : (s.endScan).done = s.done := rfl
@[simp] theorem State.endScan_err : (s.endScan).err = s.err := rfl
@[simp] theorem State.endScan_rej : (s.endScan).rej = s.rej := rfl
@[simp] theorem State.endScan_errCode : (s.endScan).errCode = s.errCode := rfl
@[simp] theorem State.endScan_length : (s.endScan).length = s.length := rfl
@[simp] theorem State.endScan_result : (s.endScan).result = s.result := rfl
@[simp] theorem State.endScan_lkup : (s.endScan).lkup = s.lkup := rfl
@[simp] theorem State.endScan_ie : (s.endScan).ie = s.ie := rfl
@[simp] theorem State.endScan_laCheck : (s.endScan).laCheck = s.laCheck := rfl
@[simp] theorem State.endScan_ibuf : (s.endScan).ibuf = s.ibuf := rfl
@[simp] theorem State.endScan_instNo : (s.endScan).instNo = s.instNo := rfl
@[simp] theorem State.endScan_powerOns : (s.endScan).powerOns = s.powerOns := rfl
@[simp] theorem State.endScan_bus : (s.endScan).bus = s.bus := rfl
@[simp] theorem State.endScan_host : (s.endScan).host = s.host := rfl
@[simp] theorem State.endScan_turns : (s.endScan).turns = s.turns := rfl

/-! ### advance -/

@[simp] theorem State.advance_params (L : Lanes) : (s.advance L).params = s.params := rfl
@[simp] theorem State.advance_lanes (L : Lanes) : (s.advance L).lanes = L := rfl
@[simp] theorem State.advance_idx (L : Lanes) : (s.advance L).idx = s.idx + 1#32 := rfl
@[simp] theorem State.advance_lenl (L : Lanes) : (s.advance L).lenl = s.lenl := rfl
@[simp] theorem State.advance_lal (L : Lanes) : (s.advance L).lal = s.lal := rfl
@[simp] theorem State.advance_fsm (L : Lanes) : (s.advance L).fsm = s.fsm := rfl
@[simp] theorem State.advance_done (L : Lanes) : (s.advance L).done = s.done := rfl
@[simp] theorem State.advance_err (L : Lanes) : (s.advance L).err = s.err := rfl
@[simp] theorem State.advance_rej (L : Lanes) : (s.advance L).rej = s.rej := rfl
@[simp] theorem State.advance_errCode (L : Lanes) : (s.advance L).errCode = s.errCode := rfl
@[simp] theorem State.advance_length (L : Lanes) : (s.advance L).length = s.length := rfl
@[simp] theorem State.advance_result (L : Lanes) : (s.advance L).result = s.result := rfl
@[simp] theorem State.advance_lkup (L : Lanes) : (s.advance L).lkup = s.lkup := rfl
@[simp] theorem State.advance_ie (L : Lanes) : (s.advance L).ie = s.ie := rfl
@[simp] theorem State.advance_laCheck (L : Lanes) : (s.advance L).laCheck = s.laCheck := rfl
@[simp] theorem State.advance_ibuf (L : Lanes) : (s.advance L).ibuf = s.ibuf := rfl
@[simp] theorem State.advance_instNo (L : Lanes) : (s.advance L).instNo = s.instNo := rfl
@[simp] theorem State.advance_powerOns (L : Lanes) : (s.advance L).powerOns = s.powerOns := rfl
@[simp] theorem State.advance_bus (L : Lanes) : (s.advance L).bus = s.bus := rfl
@[simp] theorem State.advance_host (L : Lanes) : (s.advance L).host = s.host := rfl
@[simp] theorem State.advance_turns (L : Lanes) : (s.advance L).turns = s.turns := rfl

/-! ### publish -/

@[simp] theorem State.publish_params (v : Word) : (s.publish v).params = s.params := rfl
@[simp] theorem State.publish_lanes (v : Word) : (s.publish v).lanes = s.lanes := rfl
@[simp] theorem State.publish_idx (v : Word) : (s.publish v).idx = s.idx := rfl
@[simp] theorem State.publish_lenl (v : Word) : (s.publish v).lenl = s.lenl := rfl
@[simp] theorem State.publish_lal (v : Word) : (s.publish v).lal = s.lal := rfl
@[simp] theorem State.publish_fsm (v : Word) : (s.publish v).fsm = .idle := rfl
@[simp] theorem State.publish_done (v : Word) : (s.publish v).done = true := rfl
@[simp] theorem State.publish_err (v : Word) : (s.publish v).err = s.err := rfl
@[simp] theorem State.publish_rej (v : Word) : (s.publish v).rej = s.rej := rfl
@[simp] theorem State.publish_errCode (v : Word) : (s.publish v).errCode = s.errCode := rfl
@[simp] theorem State.publish_length (v : Word) : (s.publish v).length = s.length := rfl
@[simp] theorem State.publish_result (v : Word) : (s.publish v).result = v := rfl
@[simp] theorem State.publish_lkup (v : Word) : (s.publish v).lkup = s.lkup := rfl
@[simp] theorem State.publish_ie (v : Word) : (s.publish v).ie = s.ie := rfl
@[simp] theorem State.publish_laCheck (v : Word) : (s.publish v).laCheck = s.laCheck := rfl
@[simp] theorem State.publish_ibuf (v : Word) : (s.publish v).ibuf = s.ibuf := rfl
@[simp] theorem State.publish_instNo (v : Word) : (s.publish v).instNo = s.instNo := rfl
@[simp] theorem State.publish_powerOns (v : Word) : (s.publish v).powerOns = s.powerOns := rfl
@[simp] theorem State.publish_bus (v : Word) : (s.publish v).bus = s.bus := rfl
@[simp] theorem State.publish_host (v : Word) : (s.publish v).host = s.host := rfl
@[simp] theorem State.publish_turns (v : Word) : (s.publish v).turns = s.turns := rfl

/-! ### raiseError -/

@[simp] theorem State.raiseError_params (c : ErrCode) : (s.raiseError c).params = s.params := rfl
@[simp] theorem State.raiseError_lanes (c : ErrCode) : (s.raiseError c).lanes = s.lanes := rfl
@[simp] theorem State.raiseError_idx (c : ErrCode) : (s.raiseError c).idx = s.idx := rfl
@[simp] theorem State.raiseError_lenl (c : ErrCode) : (s.raiseError c).lenl = s.lenl := rfl
@[simp] theorem State.raiseError_lal (c : ErrCode) : (s.raiseError c).lal = s.lal := rfl
@[simp] theorem State.raiseError_fsm (c : ErrCode) : (s.raiseError c).fsm = .idle := rfl
@[simp] theorem State.raiseError_done (c : ErrCode) : (s.raiseError c).done = s.done := rfl
@[simp] theorem State.raiseError_err (c : ErrCode) : (s.raiseError c).err = true := rfl
@[simp] theorem State.raiseError_rej (c : ErrCode) : (s.raiseError c).rej = s.rej := rfl
@[simp] theorem State.raiseError_errCode (c : ErrCode) : (s.raiseError c).errCode = c.code := rfl
@[simp] theorem State.raiseError_length (c : ErrCode) : (s.raiseError c).length = s.length := rfl
@[simp] theorem State.raiseError_result (c : ErrCode) : (s.raiseError c).result = s.result := rfl
@[simp] theorem State.raiseError_lkup (c : ErrCode) : (s.raiseError c).lkup = s.lkup := rfl
@[simp] theorem State.raiseError_ie (c : ErrCode) : (s.raiseError c).ie = s.ie := rfl
@[simp] theorem State.raiseError_laCheck (c : ErrCode) : (s.raiseError c).laCheck = s.laCheck := rfl
@[simp] theorem State.raiseError_ibuf (c : ErrCode) : (s.raiseError c).ibuf = s.ibuf := rfl
@[simp] theorem State.raiseError_instNo (c : ErrCode) : (s.raiseError c).instNo = s.instNo := rfl
@[simp] theorem State.raiseError_powerOns (c : ErrCode) : (s.raiseError c).powerOns = s.powerOns := rfl
@[simp] theorem State.raiseError_bus (c : ErrCode) : (s.raiseError c).bus = s.bus := rfl
@[simp] theorem State.raiseError_host (c : ErrCode) : (s.raiseError c).host = s.host := rfl
@[simp] theorem State.raiseError_turns (c : ErrCode) : (s.raiseError c).turns = s.turns := rfl

/-! ### losePower -/

@[simp] theorem State.losePower_params : (s.losePower).params = s.params := rfl
@[simp] theorem State.losePower_lanes : (s.losePower).lanes = s.lanes := rfl
@[simp] theorem State.losePower_idx : (s.losePower).idx = s.idx := rfl
@[simp] theorem State.losePower_lenl : (s.losePower).lenl = s.lenl := rfl
@[simp] theorem State.losePower_lal : (s.losePower).lal = s.lal := rfl
@[simp] theorem State.losePower_fsm : (s.losePower).fsm = s.fsm := rfl
@[simp] theorem State.losePower_done : (s.losePower).done = s.done := rfl
@[simp] theorem State.losePower_err : (s.losePower).err = s.err := rfl
@[simp] theorem State.losePower_rej : (s.losePower).rej = s.rej := rfl
@[simp] theorem State.losePower_errCode : (s.losePower).errCode = s.errCode := rfl
@[simp] theorem State.losePower_length : (s.losePower).length = s.length := rfl
@[simp] theorem State.losePower_result : (s.losePower).result = s.result := rfl
@[simp] theorem State.losePower_lkup : (s.losePower).lkup = s.lkup := rfl
@[simp] theorem State.losePower_ie : (s.losePower).ie = s.ie := rfl
@[simp] theorem State.losePower_laCheck : (s.losePower).laCheck = s.laCheck := rfl
@[simp] theorem State.losePower_ibuf : (s.losePower).ibuf = [] := rfl
@[simp] theorem State.losePower_instNo : (s.losePower).instNo = s.instNo := rfl
@[simp] theorem State.losePower_powerOns : (s.losePower).powerOns = s.powerOns + 1 := rfl
@[simp] theorem State.losePower_bus : (s.losePower).bus = s.bus := rfl
@[simp] theorem State.losePower_host : (s.losePower).host = s.host := rfl
@[simp] theorem State.losePower_turns : (s.losePower).turns = s.turns := rfl

/-! ### resetEvent -/

@[simp] theorem State.resetEvent_params : (s.resetEvent).params = s.params := rfl
@[simp] theorem State.resetEvent_lanes : (s.resetEvent).lanes = ⟨0x00#8, 0x00#8, 0x00#8, 0x00#8⟩ := rfl
@[simp] theorem State.resetEvent_idx : (s.resetEvent).idx = 0x00000000#32 := rfl
@[simp] theorem State.resetEvent_lenl : (s.resetEvent).lenl = 0x00000000#32 := rfl
@[simp] theorem State.resetEvent_lal : (s.resetEvent).lal = false := rfl
@[simp] theorem State.resetEvent_fsm : (s.resetEvent).fsm = .idle := rfl
@[simp] theorem State.resetEvent_done : (s.resetEvent).done = false := rfl
@[simp] theorem State.resetEvent_err : (s.resetEvent).err = false := rfl
@[simp] theorem State.resetEvent_rej : (s.resetEvent).rej = false := rfl
@[simp] theorem State.resetEvent_errCode : (s.resetEvent).errCode = 0x0#4 := rfl
@[simp] theorem State.resetEvent_length : (s.resetEvent).length = 0x00000000#32 := rfl
@[simp] theorem State.resetEvent_result : (s.resetEvent).result = 0x00000000#32 := rfl
@[simp] theorem State.resetEvent_lkup : (s.resetEvent).lkup = 0x0000#16 := rfl
@[simp] theorem State.resetEvent_ie : (s.resetEvent).ie = false := rfl
@[simp] theorem State.resetEvent_laCheck : (s.resetEvent).laCheck = false := rfl
@[simp] theorem State.resetEvent_ibuf : (s.resetEvent).ibuf = s.ibuf := rfl
@[simp] theorem State.resetEvent_instNo : (s.resetEvent).instNo = s.instNo := rfl
@[simp] theorem State.resetEvent_powerOns : (s.resetEvent).powerOns = s.powerOns := rfl
@[simp] theorem State.resetEvent_bus : (s.resetEvent).bus = s.bus := rfl
@[simp] theorem State.resetEvent_host : (s.resetEvent).host = s.host := rfl
@[simp] theorem State.resetEvent_turns : (s.resetEvent).turns = s.turns := rfl

end Sys2Proof.Machine
end

