-- ==== Sys2Proof/Laws/Memory.lean ====
section
/-! SUPPORT. IBUF: a read after a write, the frame of a write, and the canonical form every memory
operation keeps. -/

namespace Sys2Proof.Machine

@[simp] theorem Memory.read?_write_same (m : Memory) (i : Nat) (v : Byte) :
    Memory.read? (Memory.write m i v) i = some v := by
  induction m with
  | nil => simp [Memory.write, Memory.read?]
  | cons c rest ih =>
    obtain ⟨j, u⟩ := c
    simp only [Memory.write]
    split
    · simp [Memory.read?]
    · split
      · simp [Memory.read?]
      · rename_i h
        simp [Memory.read?, Ne.symm h, ih]

theorem Memory.read?_write_other (m : Memory) {i k : Nat} (v : Byte) (h : k ≠ i) :
    Memory.read? (Memory.write m i v) k = Memory.read? m k := by
  induction m with
  | nil => simp [Memory.write, Memory.read?, Ne.symm h]
  | cons c rest ih =>
    obtain ⟨j, u⟩ := c
    simp only [Memory.write]
    split
    · simp [Memory.read?, Ne.symm h]
    · split
      · rename_i hij
        subst hij
        simp [Memory.read?, Ne.symm h]
      · simp only [Memory.read?, ih]

theorem Memory.read?_writeBytes_outside (m : Memory) (vs : List Byte) {i k : Nat}
    (h : k < i ∨ i + vs.length ≤ k) :
    Memory.read? (Memory.writeBytes m i vs) k = Memory.read? m k := by
  induction vs generalizing m i with
  | nil => rfl
  | cons v rest ih =>
    simp only [List.length_cons] at h
    rw [Memory.writeBytes, ih _ (by omega), Memory.read?_write_other _ _ (by omega)]

theorem Memory.read?_writeBytes_inside (m : Memory) (vs : List Byte) {i k : Nat}
    (hi : i ≤ k) (hk : k < i + vs.length) :
    Memory.read? (Memory.writeBytes m i vs) k = vs[k - i]? := by
  induction vs generalizing m i with
  | nil => simp at hk; omega
  | cons v rest ih =>
    simp only [List.length_cons] at hk
    rw [Memory.writeBytes]
    by_cases h : k = i
    · subst h
      rw [Memory.read?_writeBytes_outside _ _ (by omega)]
      simp
    · rw [ih _ (by omega) (by omega), show k - i = (k - (i + 1)) + 1 by omega,
        List.getElem?_cons_succ]

/-- A canonical list stays canonical under a weaker lower bound. -/
theorem Memory.wfFrom_mono (m : Memory) {lo lo' size : Nat} (h : lo ≤ lo')
    (hm : Memory.wfFrom lo' size m = true) : Memory.wfFrom lo size m = true := by
  cases m with
  | nil => rfl
  | cons c rest =>
    simp only [Memory.wfFrom, Bool.and_eq_true, decide_eq_true_eq] at hm ⊢
    exact ⟨⟨by omega, hm.1.2⟩, hm.2⟩

theorem Memory.wfFrom_write (m : Memory) {lo size i : Nat} (v : Byte) (hlo : lo ≤ i)
    (hi : i < size) (hm : Memory.wfFrom lo size m = true) :
    Memory.wfFrom lo size (Memory.write m i v) = true := by
  induction m generalizing lo with
  | nil => simp [Memory.write, Memory.wfFrom, hlo, hi]
  | cons c rest ih =>
    obtain ⟨j, u⟩ := c
    simp only [Memory.wfFrom, Bool.and_eq_true, decide_eq_true_eq] at hm
    simp only [Memory.write]
    split
    · rename_i hij
      simp only [Memory.wfFrom, Bool.and_eq_true, decide_eq_true_eq]
      exact ⟨⟨hlo, hi⟩, ⟨by omega, hm.1.2⟩, hm.2⟩
    · split
      · rename_i hij
        subst hij
        simp only [Memory.wfFrom, Bool.and_eq_true, decide_eq_true_eq]
        exact hm
      · simp only [Memory.wfFrom, Bool.and_eq_true, decide_eq_true_eq]
        exact ⟨hm.1, ih (by omega) hm.2⟩

theorem Memory.wf_write {m : Memory} {size i : Nat} (v : Byte) (hi : i < size)
    (hm : Memory.wf size m = true) : Memory.wf size (Memory.write m i v) = true :=
  Memory.wfFrom_write m v (Nat.zero_le i) hi hm

/-- Every write to IBUF keeps the canonical form. -/
theorem Memory.wf_writeBytes {m : Memory} {size i : Nat} (vs : List Byte)
    (hi : i + vs.length ≤ size) (hm : Memory.wf size m = true) :
    Memory.wf size (Memory.writeBytes m i vs) = true := by
  induction vs generalizing m i with
  | nil => exact hm
  | cons v rest ih =>
    simp only [List.length_cons] at hi
    exact ih (by omega) (Memory.wf_write v (by omega) hm)

/-- A canonical list names no index below its bound. -/
theorem Memory.read?_below (m : Memory) {lo size i : Nat} (hm : Memory.wfFrom lo size m = true)
    (hi : i < lo) : Memory.read? m i = none := by
  induction m generalizing lo with
  | nil => rfl
  | cons c rest ih =>
    obtain ⟨j, u⟩ := c
    simp only [Memory.wfFrom, Bool.and_eq_true, decide_eq_true_eq] at hm
    simp only [Memory.read?, if_neg (show ¬ j = i by omega)]
    exact ih hm.2 (by omega)

/-- Equal memories are equal data: two canonical lists that read alike everywhere are the same list. -/
theorem Memory.ext_of_wfFrom {m m' : Memory} {lo size : Nat} (hm : Memory.wfFrom lo size m = true)
    (hm' : Memory.wfFrom lo size m' = true) (h : ∀ i, Memory.read? m i = Memory.read? m' i) :
    m = m' := by
  induction m generalizing lo m' with
  | nil =>
    cases m' with
    | nil => rfl
    | cons c' rest' => simpa [Memory.read?] using h c'.1
  | cons c rest ih =>
    obtain ⟨j, u⟩ := c
    cases m' with
    | nil => simpa [Memory.read?] using h j
    | cons c' rest' =>
      obtain ⟨j', u'⟩ := c'
      simp only [Memory.wfFrom, Bool.and_eq_true, decide_eq_true_eq] at hm hm'
      have hj : j = j' := by
        rcases Nat.lt_trichotomy j j' with hlt | heq | hgt
        · have := h j
          simp only [Memory.read?, if_neg (show ¬ j' = j by omega),
            Memory.read?_below rest' hm'.2 (show j < j' + 1 by omega), if_true] at this
          cases this
        · exact heq
        · have := h j'
          simp only [Memory.read?, if_neg (show ¬ j = j' by omega),
            Memory.read?_below rest hm.2 (show j' < j + 1 by omega), if_true] at this
          cases this
      subst hj
      have hu : u = u' := by simpa [Memory.read?] using h j
      subst hu
      congr 1
      refine ih hm.2 hm'.2 fun i => ?_
      by_cases hi : j = i
      · subst hi
        rw [Memory.read?_below rest hm.2 (Nat.lt_succ_self j),
          Memory.read?_below rest' hm'.2 (Nat.lt_succ_self j)]
      · simpa [Memory.read?, hi] using h i

/-! ## IBUF of a state -/

/-- `IBUF[i]` depends on the written bytes and on which draw applies, on nothing else. -/
theorem State.ibufByte_congr {s t : State} (hm : t.ibuf = s.ibuf) (hn : t.instNo = s.instNo)
    (hp : t.powerOns = s.powerOns) : t.ibufByte = s.ibufByte := by
  funext i
  simp only [State.ibufByte, hm, hn, hp]

theorem State.ibufByte_writeIbuf_outside (s : State) (vs : List Byte) {i k : Nat}
    (h : k < i ∨ i + vs.length ≤ k) : (s.writeIbuf i vs).ibufByte k = s.ibufByte k := by
  simp only [State.ibufByte, State.writeIbuf_ibuf, State.writeIbuf_instNo, State.writeIbuf_powerOns,
    Memory.read?_writeBytes_outside _ _ h]

theorem State.ibufByte_writeIbuf_inside (s : State) (vs : List Byte) {i k : Nat}
    (hi : i ≤ k) (hk : k < i + vs.length) : (s.writeIbuf i vs).ibufByte k = vs[k - i] := by
  simp only [State.ibufByte, State.writeIbuf_ibuf, Memory.read?_writeBytes_inside _ _ hi hk]
  rw [List.getElem?_eq_getElem (by omega)]

/-- A byte nothing has written holds the draw (R45). -/
theorem State.ibufByte_unwritten (s : State) (i : Nat) (h : Memory.read? s.ibuf i = none) :
    s.ibufByte i = Config.powerOnByte s.instNo s.powerOns i := by
  simp only [State.ibufByte, h]

end Sys2Proof.Machine
end

