-- ==== Sys2Proof/Laws/Ops.lean ====
section
/-! SUPPORT. One lemma per shared operation that says once what it can do; the provers cite these
instead of unfolding. -/

namespace Sys2Proof.Machine

/-! ## BUSY and the busy test -/

theorem State.busy_eq_false_iff (s : State) : s.busy = false ↔ s.fsm = .idle := by
  unfold State.busy
  cases s.fsm <;> simp

theorem State.busy_eq_true_iff (s : State) : s.busy = true ↔ s.fsm ≠ .idle := by
  unfold State.busy
  cases s.fsm <;> simp

/-- BUSY is a function of FSM alone (R27). -/
theorem State.busy_congr {s t : State} (h : t.fsm = s.fsm) : t.busy = s.busy := by
  simp only [State.busy, h]

theorem State.whenIdle_idle {s : State} (h : s.busy = false) (f : State → State) :
    s.whenIdle f = f s := by
  simp [State.whenIdle, h]

theorem State.whenIdle_busy {s : State} (h : s.busy = true) (f : State → State) :
    s.whenIdle f = s.reject := by
  simp [State.whenIdle, h]

/-- Bit 0 of STATUS is BUSY (R26). -/
theorem State.statusWord_bit0 (s : State) : s.statusWord.getLsbD 0 = s.busy := by
  unfold State.statusWord
  rw [BitVec.getLsbD_append]
  cases s.busy <;> simp

/-! ## Length checks, error entry -/

theorem lengthCheck_cases (inSize n : Nat) :
    (n < seedLen ∧ lengthCheck inSize n = some .short) ∨
    (seedLen ≤ n ∧ sizeLimit < n ∧ lengthCheck inSize n = some .size) ∨
    (seedLen ≤ n ∧ n ≤ sizeLimit ∧ inSize < n ∧ lengthCheck inSize n = some .buffer) ∨
    (seedLen ≤ n ∧ n ≤ sizeLimit ∧ n ≤ inSize ∧ lengthCheck inSize n = none) := by
  unfold lengthCheck
  split
  · left; exact ⟨by assumption, rfl⟩
  · split
    · right; left; exact ⟨by omega, by omega, rfl⟩
    · split
      · right; right; left; exact ⟨by omega, by omega, by omega, rfl⟩
      · right; right; right; exact ⟨by omega, by omega, by omega, rfl⟩

/-- An accepting step of HASH either raises a length error or latches the operands (R78). -/
theorem acceptHash_cases (s : State) :
    (∃ c, lengthCheck s.params.inSize s.length.toNat = some c ∧
      acceptHash s = s.clearDone.beginCommand.raiseError c) ∨
    (lengthCheck s.params.inSize s.length.toNat = none ∧
      acceptHash s = s.clearDone.beginCommand.latchHash) := by
  unfold acceptHash
  split
  · left; exact ⟨_, by assumption, rfl⟩
  · right; exact ⟨by assumption, rfl⟩

theorem ErrCode.code_ne_zero (c : ErrCode) : c.code ≠ 0x0#4 := by cases c <;> decide

theorem ErrCode.code_legal (c : ErrCode) : c.code ∈ legalErrCodes := by cases c <;> decide

/-! ## The window -/

theorem regionOf_register {inSize o : Nat} {off : Word} {size : Size} :
    regionOf inSize off size = .register o ↔
      o = off.toNat ∧ off.toNat < ibufBase ∧ size = .word ∧ off.toNat % 4 = 0 := by
  unfold regionOf
  split
  · split
    · simp_all [eq_comm]
    · simp_all
  · split
    · split <;> simp_all
    · simp_all

theorem regionOf_buffer {inSize i : Nat} {off : Word} {size : Size} :
    regionOf inSize off size = .buffer i ↔
      off.toNat = ibufBase + i ∧ i < inSize ∧ i % size.bytes = 0 := by
  unfold regionOf
  split
  · split
    · simp; omega
    · simp; omega
  · split
    · split
      · simp only [Region.buffer.injEq]
        constructor
        · rintro rfl
          exact ⟨by omega, by omega, by assumption⟩
        · rintro ⟨h, _, _⟩
          omega
      · rename_i h
        simp only [reduceCtorEq, false_iff, not_and]
        intro h1 h2 h3
        exact h (by rw [h1]; simpa using h3)
    · simp; omega

theorem regionOf_outside {inSize : Nat} {off : Word} {size : Size} :
    regionOf inSize off size = .outside ↔ ibufBase + inSize ≤ off.toNat := by
  unfold regionOf
  split
  · split <;> simp <;> omega
  · split
    · split <;> simp <;> omega
    · simp; omega

theorem regionOf_busError {inSize : Nat} {off : Word} {size : Size} :
    regionOf inSize off size = .busError ↔
      (off.toNat < ibufBase ∧ ¬ (size = .word ∧ off.toNat % 4 = 0)) ∨
      (ibufBase ≤ off.toNat ∧ off.toNat < ibufBase + inSize ∧
        (off.toNat - ibufBase) % size.bytes ≠ 0) := by
  unfold regionOf
  split
  · split
    · simp_all
    · simp_all
  · split
    · split
      · simp_all
      · simp_all
    · simp_all

/-- An aligned transaction stays inside IBUF (R51), because IN_SIZE is a multiple of 4. -/
theorem aligned_inside {inSize i : Nat} {size : Size} (h4 : inSize % 4 = 0) (hi : i < inSize)
    (ha : i % size.bytes = 0) : i + size.bytes ≤ inSize := by
  cases size <;> simp only [Size.bytes] at * <;> omega

theorem writeData_length (size : Size) (v : Word) : (writeData size v).length = size.bytes := by
  cases size <;> rfl

/-! ## Transactions -/

/-- A read changes nothing but the response (R54), or lies outside the window. -/
theorem memRead_cases (off : Word) (size : Size) (s : State) :
    (∃ r, memRead off size s = .next (s.respond r)) ∨
    (regionOf s.params.inSize off size = .outside ∧ memRead off size s = .refused .outsideWindow) := by
  unfold memRead
  split
  · left; exact ⟨_, rfl⟩
  · left; exact ⟨_, rfl⟩
  · left; exact ⟨_, rfl⟩
  · right; exact ⟨by assumption, rfl⟩

/-- What a command word can do to a state (R99): nothing (NOP), rejection (busy), or, idle, the error of
an ILLEGAL word or its command's effect. -/
theorem dispatchCmd_cases (w : Word) (s : State) :
    (∃ a, decode w = .ok (.nop a) ∧ dispatchCmd w s = .next s) ∨
    (s.busy = true ∧ (∀ a, decode w ≠ .ok (.nop a)) ∧ dispatchCmd w s = .next s.reject) ∨
    (s.busy = false ∧ (∃ e, decode w = .error e) ∧ dispatchCmd w s = .next (raiseIllegal s)) ∨
    (s.busy = false ∧ (∃ a, decode w = .ok (.hash a)) ∧ dispatchCmd w s = .next (acceptHash s)) ∨
    (s.busy = false ∧ ∃ b, decode w = .ok (.lookup b) ∧
      dispatchCmd w s = .next (lookupEntry b s)) ∨
    (s.busy = false ∧ (∃ a, decode w = .ok (.clear a)) ∧ dispatchCmd w s = .next s.clearResults) := by
  unfold dispatchCmd
  cases hb : s.busy
  · cases hd : decode w with
    | error e => simp [illegalWord, State.whenIdle, hb]
    | ok i => cases i <;> simp [exec, execNop, execHash, execLookup, execClear, State.whenIdle, hb]
  · cases hd : decode w with
    | error e => simp [illegalWord, State.whenIdle, hb]
    | ok i => cases i <;> simp [exec, execNop, execHash, execLookup, execClear, State.whenIdle, hb]

theorem Txn.cmdWrite_write (off : Word) (size : Size) (v : Word) :
    (Txn.write off size v).cmdWrite = if off = cmdOffset ∧ size = .word then some v else none := rfl

/-- What a write transaction can do (R104, R105, R106): a command, a register, IBUF, a bus error that
changes nothing, or it lies outside the window. -/
theorem memWrite_cases (off : Word) (size : Size) (v : Word) (s : State) :
    (∃ r, memWrite off size v s = .next (s.respond r) ∧
      (Txn.write off size v).cmdWrite = none ∧
      (Txn.write off size v).ibufStore s.params.inSize = none) ∨
    ((Txn.write off size v).cmdWrite = some v ∧
      (Txn.write off size v).ibufStore s.params.inSize = none ∧
      memWrite off size v s = dispatchCmd v (s.respond okayWrite)) ∨
    (off = 0x008#32 ∧ size = .word ∧
      memWrite off size v s = .next ((s.respond okayWrite).setLength v) ∧
      (Txn.write off size v).cmdWrite = none ∧
      (Txn.write off size v).ibufStore s.params.inSize = none) ∨
    (off = 0x014#32 ∧ size = .word ∧
      memWrite off size v s = .next ((s.respond okayWrite).setConfig v) ∧
      (Txn.write off size v).cmdWrite = none ∧
      (Txn.write off size v).ibufStore s.params.inSize = none) ∨
    (∃ i, regionOf s.params.inSize off size = .buffer i ∧
      (Txn.write off size v).cmdWrite = none ∧
      (Txn.write off size v).ibufStore s.params.inSize = some (i, writeData size v) ∧
      memWrite off size v s = .next ((s.respond okayWrite).writeIbuf i (writeData size v))) ∨
    (regionOf s.params.inSize off size = .outside ∧
      (Txn.write off size v).cmdWrite = none ∧
      (Txn.write off size v).ibufStore s.params.inSize = none ∧
      memWrite off size v s = .refused .outsideWindow) := by
  cases hr : regionOf s.params.inSize off size with
  | register o =>
    have h := regionOf_register.1 hr
    obtain ⟨rfl, h1, rfl, h2⟩ := h
    have hst : (Txn.write off .word v).ibufStore s.params.inSize = none := by
      simp [Txn.ibufStore, hr]
    by_cases hc : off = cmdOffset
    · subst hc
      right; left
      refine ⟨by simp [Txn.cmdWrite], hst, ?_⟩
      rw [memWrite, hr]
      rfl
    · have hcw : (Txn.write off .word v).cmdWrite = none := by simp [Txn.cmdWrite, hc]
      have hne : off.toNat ≠ 0 := by
        intro h0
        exact hc (BitVec.eq_of_toNat_eq (by simpa [cmdOffset] using h0))
      have hoff : ∀ n : Word, off.toNat = n.toNat → off = n := fun n h => BitVec.eq_of_toNat_eq h
      simp only [memWrite, hr, hcw, hst, and_true, true_and]
      simp only [regAt, if_neg hne]
      split_ifs with h4 h8 hC h10 h14
      · simp [writeReg]
      · right; right; left
        exact ⟨hoff _ h8, rfl⟩
      · simp [writeReg]
      · simp [writeReg]
      · right; right; right; left
        exact ⟨hoff _ h14, rfl⟩
      · simp [writeReg]
  | buffer i =>
    have h := regionOf_buffer.1 hr
    have hc : off ≠ cmdOffset := by
      rintro rfl
      have := h.1
      simp [cmdOffset, ibufBase] at this
      omega
    right; right; right; right; left
    exact ⟨i, rfl, by simp [Txn.cmdWrite, hc], by simp [Txn.ibufStore, hr], by simp [memWrite, hr]⟩
  | busError =>
    left
    refine ⟨errorWrite, by simp [memWrite, hr], ?_, by simp [Txn.ibufStore, hr]⟩
    have h := regionOf_busError.1 hr
    rw [Txn.cmdWrite_write, if_neg]
    rintro ⟨rfl, rfl⟩
    simp [cmdOffset, ibufBase] at h
  | outside =>
    right; right; right; right; right
    have h := regionOf_outside.1 hr
    refine ⟨rfl, ?_, by simp [Txn.ibufStore, hr], by simp [memWrite, hr]⟩
    rw [Txn.cmdWrite_write, if_neg]
    rintro ⟨rfl, rfl⟩
    simp [cmdOffset, ibufBase] at h

/-! ## Engine steps -/

theorem State.engineRead_of_lt {s : State} {i : Nat} (h : i < s.params.inSize) :
    s.engineRead i = some (s.ibufByte i) := by
  simp [State.engineRead, h]

theorem seedStep_of_valid {s : State} (h : s.params.Valid) :
    seedStep s = .next (s.startScan
      (seedLanes (s.ibufByte 0) (s.ibufByte 1) (s.ibufByte 2) (s.ibufByte 3))) := by
  have h4 := h.1
  unfold seedStep
  rw [State.engineRead_of_lt (by omega), State.engineRead_of_lt (by omega),
    State.engineRead_of_lt (by omega), State.engineRead_of_lt (by omega)]

/-- What a SCAN step can do (R84 to R88). -/
theorem scanStep_cases (s : State) :
    (scanVerdict s = .stop ∧ scanStep s = .next s.endScan) ∨
    (∃ b, scanVerdict s = .fold b ∧ scanStep s = .next (s.advance (foldLanes b s.lanes))) ∨
    (scanVerdict s = .fail ∧ scanStep s = .next (s.raiseError .lookAhead)) ∨
    (scanVerdict s = .noSuchIndex ∧ scanStep s = .fault .engineReadOutsideIbuf) := by
  unfold scanStep
  cases scanVerdict s <;> simp

/-! ## Whole steps -/

theorem step_eq (s : State) : step s = takeTurn (nextTurn s) (s.setTurns s.turns.tail) := rfl

/-- What one turn of the host can do: nothing, a transaction, or one poll of STATUS. -/
theorem hostStep_cases (s : State) :
    (s.host = [] ∧ hostStep s = .next s) ∨
    (∃ t rest, s.host = .txn t :: rest ∧ hostStep s = transact t (s.setHost rest)) ∨
    (∃ rest, s.host = .waitIdle :: rest ∧ hostStep s = pollStatus rest s) := by
  unfold hostStep
  split
  · left; exact ⟨by assumption, rfl⟩
  · right; left; exact ⟨_, _, by assumption, rfl⟩
  · right; right; exact ⟨_, by assumption, rfl⟩

/-- A poll of STATUS drives the response and nothing else of the block. -/
theorem pollStatus_cases (rest : List HostOp) (s : State) :
    (s.busy = true ∧ pollStatus rest s = .next (s.respond (okayRead s.statusWord))) ∨
    (s.busy = false ∧
      pollStatus rest s = .next ((s.setHost rest).respond (okayRead s.statusWord))) := by
  unfold pollStatus
  rw [State.statusWord_bit0]
  cases hb : s.busy <;> simp

end Sys2Proof.Machine
end

