-- ==== Sys2Proof/Laws/Step.lean ====
section
/-! SUPPORT. What one step of the machine can do, said once: the invariants and the whole-machine rules
are case analyses over `step_cases`. -/

namespace Sys2Proof.Machine

/-- `p` is `s` but for what stands outside the block: the turns, the host and the last response. -/
structure EnvOnly (s p : State) : Prop where
  params   : p.params = s.params
  lanes    : p.lanes = s.lanes
  idx      : p.idx = s.idx
  lenl     : p.lenl = s.lenl
  lal      : p.lal = s.lal
  fsm      : p.fsm = s.fsm
  done     : p.done = s.done
  err      : p.err = s.err
  rej      : p.rej = s.rej
  errCode  : p.errCode = s.errCode
  length   : p.length = s.length
  result   : p.result = s.result
  lkup     : p.lkup = s.lkup
  ie       : p.ie = s.ie
  laCheck  : p.laCheck = s.laCheck
  ibuf     : p.ibuf = s.ibuf
  instNo   : p.instNo = s.instNo
  powerOns : p.powerOns = s.powerOns

theorem EnvOnly.refl (s : State) : EnvOnly s s := by constructor <;> rfl

theorem EnvOnly.setTurns {s p : State} (h : EnvOnly s p) (ts : List Turn) :
    EnvOnly s (p.setTurns ts) := by
  cases h; constructor <;> simpa

theorem EnvOnly.setHost {s p : State} (h : EnvOnly s p) (ops : List HostOp) :
    EnvOnly s (p.setHost ops) := by
  cases h; constructor <;> simpa

theorem EnvOnly.respond {s p : State} (h : EnvOnly s p) (r : BusResponse) :
    EnvOnly s (p.respond r) := by
  cases h; constructor <;> simpa

theorem EnvOnly.busy {s p : State} (h : EnvOnly s p) : p.busy = s.busy := State.busy_congr h.fsm

theorem EnvOnly.ibufByte {s p : State} (h : EnvOnly s p) : p.ibufByte = s.ibufByte :=
  State.ibufByte_congr h.ibuf h.instNo h.powerOns

/-- What the host's turn from `s` can do to `p`, which is `s` with the turn, the transaction and the
response dealt with. -/
inductive HostEffect (s p : State) : State → Prop where
  /-- A read, a poll, an ignored write, a bus error, a NOP, or no transaction at all. -/
  | none : HostEffect s p p
  /-- A non-NOP word while BUSY = 1. -/
  | rejected (w : Word) (cmd : nextCommand s = some w) (notNop : ∀ a, decode w ≠ .ok (.nop a))
      (busy : s.busy = true) : HostEffect s p p.reject
  /-- An ILLEGAL word while idle. -/
  | illegal (w : Word) (e : Illegal) (cmd : nextCommand s = some w) (dec : decode w = .error e)
      (idle : s.busy = false) : HostEffect s p (raiseIllegal p)
  /-- HASH while idle. -/
  | hash (w : Word) (a : Byte) (cmd : nextCommand s = some w) (dec : decode w = .ok (.hash a))
      (idle : s.busy = false) : HostEffect s p (acceptHash p)
  /-- LOOKUP while idle. -/
  | lookup (w : Word) (b : Byte) (cmd : nextCommand s = some w) (dec : decode w = .ok (.lookup b))
      (idle : s.busy = false) : HostEffect s p (lookupEntry b p)
  /-- CLEAR while idle. -/
  | clear (w : Word) (a : Byte) (cmd : nextCommand s = some w) (dec : decode w = .ok (.clear a))
      (idle : s.busy = false) : HostEffect s p p.clearResults
  /-- A write to LENGTH. -/
  | length (v : Word) (txn : nextTxn s = some (.write 0x008#32 .word v)) :
      HostEffect s p (p.setLength v)
  /-- A write to CONFIG. -/
  | config (v : Word) (txn : nextTxn s = some (.write 0x014#32 .word v)) :
      HostEffect s p (p.setConfig v)
  /-- A write to IBUF. -/
  | store (off : Word) (size : Size) (v : Word) (i : Nat)
      (txn : nextTxn s = some (.write off size v))
      (reg : regionOf s.params.inSize off size = .buffer i)
      (st : (Txn.write off size v).ibufStore s.params.inSize = some (i, writeData size v)) :
      HostEffect s p (p.writeIbuf i (writeData size v))

theorem nextTxn_of_host {s : State} {t : Txn} {rest : List HostOp} (hn : nextTurn s = .host)
    (hh : s.host = .txn t :: rest) : nextTxn s = some t := by
  simp [nextTxn, hn, hh]

/-- The effect of a write transaction, from `memWrite_cases` and `dispatchCmd_cases`. -/
theorem memWrite_effect {s q s' : State} {off : Word} {size : Size} {v : Word}
    (ht : nextTxn s = some (.write off size v)) (hq : EnvOnly s q)
    (h : memWrite off size v q = .next s') :
    ∃ r, HostEffect s (q.respond r) s' := by
  have hcmd : ∀ w, (Txn.write off size v).cmdWrite = some w → nextCommand s = some w := by
    intro w hw
    simp [nextCommand, ht, hw]
  rcases memWrite_cases off size v q with ⟨r, hr, -, -⟩ | ⟨hc, -, hr⟩ | ⟨rfl, rfl, hr, -, -⟩ |
    ⟨rfl, rfl, hr, -, -⟩ | ⟨i, hreg, -, hst, hr⟩ | ⟨-, -, -, hr⟩ <;> rw [hr] at h
  · cases h; exact ⟨r, .none⟩
  · have hb : (q.respond okayWrite).busy = s.busy := (hq.respond _).busy
    refine ⟨okayWrite, ?_⟩
    rcases dispatchCmd_cases v (q.respond okayWrite) with ⟨a, -, hr⟩ | ⟨hb', hn, hr⟩ |
      ⟨hb', ⟨e, he⟩, hr⟩ | ⟨hb', ⟨a, ha⟩, hr⟩ | ⟨hb', b, hd, hr⟩ | ⟨hb', ⟨a, ha⟩, hr⟩ <;>
      rw [hr] at h <;> cases h
    · exact .none
    · exact .rejected v (hcmd _ hc) hn (hb ▸ hb')
    · exact .illegal v e (hcmd _ hc) he (hb ▸ hb')
    · exact .hash v a (hcmd _ hc) ha (hb ▸ hb')
    · exact .lookup v b (hcmd _ hc) hd (hb ▸ hb')
    · exact .clear v a (hcmd _ hc) ha (hb ▸ hb')
  · cases h; exact ⟨okayWrite, .length v ht⟩
  · cases h; exact ⟨okayWrite, .config v ht⟩
  · cases h
    rw [hq.params] at hreg hst
    exact ⟨okayWrite, .store off size v i ht hreg hst⟩
  · cases h

/-- What one turn of the host can do. -/
theorem hostStep_effect {s q s' : State} (hn : nextTurn s = .host) (hq : EnvOnly s q)
    (hh : q.host = s.host) (h : hostStep q = .next s') :
    ∃ p, EnvOnly s p ∧ HostEffect s p s' := by
  rcases hostStep_cases q with ⟨-, hr⟩ | ⟨t, rest, ht, hr⟩ | ⟨rest, ht, hr⟩ <;> rw [hr] at h
  · cases h; exact ⟨_, hq, .none⟩
  · have htx := nextTxn_of_host hn (hh ▸ ht)
    cases t with
    | read off size =>
      rcases memRead_cases off size (q.setHost rest) with ⟨r, hr⟩ | ⟨-, hr⟩ <;>
        rw [transact, hr] at h <;> cases h
      exact ⟨_, (hq.setHost rest).respond r, .none⟩
    | write off size v =>
      obtain ⟨r, hr⟩ := memWrite_effect htx (hq.setHost rest) h
      exact ⟨_, (hq.setHost rest).respond r, hr⟩
  · rcases pollStatus_cases rest q with ⟨-, hr⟩ | ⟨-, hr⟩ <;> rw [hr] at h <;> cases h
    · exact ⟨_, hq.respond _, .none⟩
    · exact ⟨_, (hq.setHost rest).respond _, .none⟩

/-- WHAT A STEP CAN DO. -/
theorem step_cases {s s' : State} (h : step s = .next s') :
    ∃ p, EnvOnly s p ∧
      ((nextTurn s = .host ∧ HostEffect s p s') ∨
       (nextTurn s = .engine ∧ engineStep p = .next s') ∨
       (nextTurn s = .reset ∧ s' = p.resetEvent) ∨
       (nextTurn s = .powerCycle ∧ s' = p.powerCycle)) := by
  rw [step_eq] at h
  have hq : EnvOnly s (s.setTurns s.turns.tail) := (EnvOnly.refl s).setTurns _
  cases hn : nextTurn s <;> rw [hn] at h
  · obtain ⟨p, hp, he⟩ := hostStep_effect hn hq rfl h
    exact ⟨p, hp, .inl ⟨rfl, he⟩⟩
  · exact ⟨_, hq, .inr (.inl ⟨rfl, h⟩)⟩
  · cases h; exact ⟨_, hq, .inr (.inr (.inl ⟨rfl, rfl⟩))⟩
  · cases h; exact ⟨_, hq, .inr (.inr (.inr ⟨rfl, rfl⟩))⟩

/-- What an engine turn can do (R23). -/
theorem engineStep_cases {s s' : State} (h : engineStep s = .next s') :
    (s.fsm = .idle ∧ s' = s) ∨
    (s.fsm = .seed ∧ ∃ L, s' = s.startScan L) ∨
    (s.fsm = .scan ∧ scanVerdict s = .stop ∧ s' = s.endScan) ∨
    (s.fsm = .scan ∧ ∃ b, scanVerdict s = .fold b ∧ s' = s.advance (foldLanes b s.lanes)) ∨
    (s.fsm = .scan ∧ scanVerdict s = .fail ∧ s' = s.raiseError .lookAhead) ∨
    (s.fsm = .finish ∧ s' = s.publish (maskedKey s.lanes)) := by
  unfold engineStep at h
  cases hf : s.fsm <;> simp only [hf] at h
  · cases h; simp
  · unfold seedStep at h
    split at h <;> cases h
    simp
  · rcases scanStep_cases s with ⟨hv, hr⟩ | ⟨b, hv, hr⟩ | ⟨hv, hr⟩ | ⟨-, hr⟩ <;> rw [hr] at h <;>
      cases h <;> simp [hv]
  · cases h; simp

end Sys2Proof.Machine
end

