-- ==== Sys2Proof/Laws/Inv.lean ====
section
/-! SUPPORT. Each single operation keeps the invariant of Safety.lean; a step is built of them
(`step_cases`). -/

namespace Sys2Proof.Machine

/-- The invariant does not read what stands outside the block. -/
theorem State.Inv.envOnly {s p : State} (hi : s.Inv) (h : EnvOnly s p) : p.Inv where
  params_valid := by rw [h.params]; exact hi.params_valid
  ibuf_wf := by rw [h.params, h.ibuf]; exact hi.ibuf_wf
  result_masked := by rw [h.result]; exact hi.result_masked
  code_legal := by rw [h.errCode]; exact hi.code_legal
  err_iff_code := by rw [h.errCode, h.err]; exact hi.err_iff_code
  done_idle := by rw [h.done, h.fsm]; exact hi.done_idle
  busy_no_err := by rw [h.busy, h.err]; exact hi.busy_no_err
  lkup_legal := by rw [h.lkup]; exact hi.lkup_legal
  busy_len := by rw [h.busy, h.lenl, h.params]; exact hi.busy_len
  scan_idx := by rw [h.fsm, h.lenl, h.idx]; exact hi.scan_idx

/-- The error entry (R116). -/
theorem State.Inv.raiseError {s : State} (hi : s.Inv) (c : ErrCode) : (s.raiseError c).Inv where
  params_valid := hi.params_valid
  ibuf_wf := hi.ibuf_wf
  result_masked := hi.result_masked
  code_legal := c.code_legal
  err_iff_code := by simp [ErrCode.code_ne_zero]
  done_idle := fun _ => rfl
  busy_no_err := by intro h; cases h
  lkup_legal := hi.lkup_legal
  busy_len := by intro h; cases h
  scan_idx := by intro h; cases h

/-- ERR and ERRCODE cleared at the start of a command (R29). -/
theorem State.Inv.beginCommand {s : State} (hi : s.Inv) : s.beginCommand.Inv where
  params_valid := hi.params_valid
  ibuf_wf := hi.ibuf_wf
  result_masked := hi.result_masked
  code_legal := by simp [legalErrCodes]
  err_iff_code := by simp
  done_idle := hi.done_idle
  busy_no_err := fun _ => rfl
  lkup_legal := hi.lkup_legal
  busy_len := hi.busy_len
  scan_idx := hi.scan_idx

theorem State.Inv.clearDone {s : State} (hi : s.Inv) : s.clearDone.Inv where
  params_valid := hi.params_valid
  ibuf_wf := hi.ibuf_wf
  result_masked := hi.result_masked
  code_legal := hi.code_legal
  err_iff_code := hi.err_iff_code
  done_idle := by simp
  busy_no_err := hi.busy_no_err
  lkup_legal := hi.lkup_legal
  busy_len := hi.busy_len
  scan_idx := hi.scan_idx

theorem State.Inv.reject {s : State} (hi : s.Inv) : s.reject.Inv := { hi with }

theorem State.Inv.setLength {s : State} (hi : s.Inv) (v : Word) : (s.setLength v).Inv := { hi with }

theorem State.Inv.setConfig {s : State} (hi : s.Inv) (v : Word) : (s.setConfig v).Inv := { hi with }

/-- CLEAR (R101). -/
theorem State.Inv.clearResults {s : State} (hi : s.Inv) : s.clearResults.Inv where
  params_valid := hi.params_valid
  ibuf_wf := hi.ibuf_wf
  result_masked := by simp
  code_legal := by simp [legalErrCodes]
  err_iff_code := by simp
  done_idle := by simp
  busy_no_err := by simp
  lkup_legal := .inl rfl
  busy_len := hi.busy_len
  scan_idx := hi.scan_idx

/-- The reset event (R127). -/
theorem State.Inv.resetEvent {s : State} (hi : s.Inv) : s.resetEvent.Inv where
  params_valid := hi.params_valid
  ibuf_wf := hi.ibuf_wf
  result_masked := by simp
  code_legal := by simp [legalErrCodes]
  err_iff_code := by simp
  done_idle := by simp
  busy_no_err := by simp
  lkup_legal := .inl rfl
  busy_len := by intro h; cases h
  scan_idx := by simp

theorem State.Inv.losePower {s : State} (hi : s.Inv) : s.losePower.Inv :=
  { hi with ibuf_wf := rfl }

/-- An IBUF write inside IBUF (R105). -/
theorem State.Inv.writeIbuf {s : State} (hi : s.Inv) {i : Nat} {vs : List Byte}
    (h : i + vs.length ≤ s.params.inSize) : (s.writeIbuf i vs).Inv :=
  { hi with ibuf_wf := Memory.wf_writeBytes vs h hi.ibuf_wf }

/-- The masker's output has bits 5:0 zero (R91). -/
theorem maskedKey_masked (L : Lanes) : maskedKey L &&& 0x0000003F#32 = 0#32 := by
  have h : (0xFFFFFFC0#32 &&& 0x0000003F#32 : Word) = 0#32 := by decide
  unfold maskedKey resultMask
  rw [BitVec.and_assoc, h, BitVec.and_zero]

/-- What LOOKUP puts into LKUP is legal there (R33, R73). -/
theorem lkupLegal_lookup (b : Byte) : lkupLegal (b ++ T b) := by
  right
  have hi : (b ++ T b).extractLsb' 8 8 = b := by
    apply BitVec.eq_of_getLsbD_eq
    intro k hk
    rw [BitVec.getLsbD_extractLsb', BitVec.getLsbD_append]
    simp [hk]
  have hd : (b ++ T b).extractLsb' 0 8 = T b := by
    apply BitVec.eq_of_getLsbD_eq
    intro k hk
    rw [BitVec.getLsbD_extractLsb', BitVec.getLsbD_append]
    simp [hk]
  rw [hi, hd]

/-- A fold happens only before the end of the string (R84, R88). -/
theorem scanVerdict_fold {s : State} {b : Byte} (h : scanVerdict s = .fold b) :
    s.idx ≠ s.lenl ∧ s.ibufByte s.idx.toNat = b := by
  unfold scanVerdict at h
  split at h
  · cases h
  · refine ⟨by assumption, ?_⟩
    unfold State.engineRead at h
    split at h
    · rename_i b' hb'
      split at hb' <;> cases hb'
      unfold byteVerdict at h
      split_ifs at h
      · unfold sepVerdict at h
        split at h
        · split at h <;> cases h
          rfl
        · cases h
        · cases h
      · cases h; rfl
    · cases h

/-- "IDX + 1 never overflows 32 bits" below LENL (R21). -/
theorem idx_succ_toNat {i n : Word} (h : i.toNat < n.toNat) : (i + 1#32).toNat = i.toNat + 1 := by
  have := n.isLt
  rw [BitVec.toNat_add]
  simp
  omega

end Sys2Proof.Machine
end

