-- ==== Sys2Proof/Laws/PerInstr.lean ====
section
/-! SUPPORT. The per-instruction family Encoding: each command's word has the fields of R60. -/

namespace Sys2Proof.Laws.Encoding

/-- The word of `i` carries its opcode in OP and its operand in ARG, with RSV0 and RSV1 zero (R60, R62). -/
def Statement (i : Instr) : Prop :=
  opField (encode i) = i.opcode ∧ argField (encode i) = i.operand ∧
  rsv0Field (encode i) = 0#4 ∧ rsv1Field (encode i) = 0#16

/-- The four fields of any command's word. -/
theorem fields (i : Instr) : Statement i :=
  ⟨opField_encode i, argField_encode i, rsv0Field_encode i, rsv1Field_encode i⟩

theorem nop (arg : Byte) : Statement (.nop arg) := fields _

theorem hash (arg : Byte) : Statement (.hash arg) := fields _

theorem lookup (b : Byte) : Statement (.lookup b) := fields _

theorem clear (arg : Byte) : Statement (.clear arg) := fields _

end Sys2Proof.Laws.Encoding
end

