-- ==== Sys2Proof/Laws/Run.lean ====
section
/-! SUPPORT. Runs: of any machine, of this one, and of the engine alone. -/

namespace Sys2Proof.Machine

theorem run_succ_of_next (M : Host.Core) {s s' : M.State} (k : Nat) (h : M.step s = .next s') :
    Host.Core.run M (k + 1) s = Host.Core.run M k s' := by
  rw [Host.Core.run, h]

theorem run_succ_inv (M : Host.Core) {s t : M.State} (k : Nat)
    (h : Host.Core.run M (k + 1) s = .next t) :
    ∃ s', M.step s = .next s' ∧ Host.Core.run M k s' = .next t := by
  rw [Host.Core.run] at h
  split at h
  · exact ⟨_, by assumption, h⟩
  · cases h
  · cases h

/-- The engine takes no step while FSM is IDLE, so a run of it that reached IDLE stays there. -/
theorem engineRun_idle (k : Nat) {s : State} (h : s.fsm = .idle) : engineRun k s = .next s := by
  induction k with
  | zero => rfl
  | succ k ih =>
    have hs : engineStep s = .next s := by rw [engineStep, h]
    rw [engineRun, hs]
    exact ih

theorem engineRun_add (j k : Nat) {s v : State} (h : engineRun j s = .next v) :
    engineRun (j + k) s = engineRun k v := by
  induction j generalizing s with
  | zero => cases h; simp
  | succ j ih =>
    rw [engineRun] at h
    rw [show j + 1 + k = (j + k) + 1 by omega, engineRun]
    cases hx : engineStep s <;> simp only [hx] at h ⊢
    · exact ih h
    · cases h
    · cases h

/-- An engine turn leaves what stands outside the block alone. -/
theorem engineStep_env {s s' : State} (h : engineStep s = .next s') :
    s'.host = s.host ∧ s'.turns = s.turns ∧ s'.bus = s.bus := by
  rcases engineStep_cases h with ⟨-, rfl⟩ | ⟨-, L, rfl⟩ | ⟨-, -, rfl⟩ | ⟨-, b, -, rfl⟩ |
    ⟨-, -, rfl⟩ | ⟨-, rfl⟩ <;> exact ⟨rfl, rfl, rfl⟩

/-- A transaction leaves the order of the steps to come alone. -/
theorem transact_turns {t : Txn} {s s' : State} (h : transact t s = .next s') :
    s'.turns = s.turns := by
  cases t with
  | read off size =>
    rcases memRead_cases off size s with ⟨r, hr⟩ | ⟨-, hr⟩ <;> rw [transact, hr] at h <;> cases h
    rfl
  | write off size v =>
    rw [transact] at h
    rcases memWrite_cases off size v s with ⟨r, hr, -, -⟩ | ⟨-, -, hr⟩ | ⟨-, -, hr, -, -⟩ |
      ⟨-, -, hr, -, -⟩ | ⟨i, -, -, -, hr⟩ | ⟨-, -, -, hr⟩ <;> rw [hr] at h
    · cases h; rfl
    · rcases dispatchCmd_cases v (s.respond okayWrite) with ⟨a, -, hr⟩ | ⟨-, -, hr⟩ | ⟨-, -, hr⟩ |
        ⟨-, -, hr⟩ | ⟨-, b, -, hr⟩ | ⟨-, -, hr⟩ <;> rw [hr] at h <;> cases h <;> try rfl
      rcases acceptHash_cases (s.respond okayWrite) with ⟨c, -, h⟩ | ⟨-, h⟩ <;> rw [h] <;> rfl
    · cases h; rfl
    · cases h; rfl
    · cases h; rfl
    · cases h

/-- A step uses up one turn of the given order. -/
theorem step_turns {s s' : State} (h : step s = .next s') : s'.turns = s.turns.tail := by
  rw [step_eq] at h
  cases hn : nextTurn s <;> rw [hn, takeTurn] at h
  · rcases hostStep_cases (s.setTurns s.turns.tail) with ⟨-, hr⟩ | ⟨t, rest, -, hr⟩ |
      ⟨rest, -, hr⟩ <;> rw [hr] at h
    · cases h; rfl
    · rw [transact_turns h]; rfl
    · rcases pollStatus_cases rest (s.setTurns s.turns.tail) with ⟨-, hr⟩ | ⟨-, hr⟩ <;>
        rw [hr] at h <;> cases h <;> rfl
  · exact (engineStep_env h).2.1
  · cases h; rfl
  · cases h; rfl

end Sys2Proof.Machine
end

