-- ==== Sys2Proof/Tests/Slice0.lean ====
section
/-! SUPPORT. The model's own tests, and for every statement with hypotheses a concrete state that meets
them. Expected values come from spec/95_test_vectors.md (the vector is named) or from the rule named. -/

namespace Sys2Proof.Tests

open Sys2Proof.Machine

/-! ## Helpers -/

/-- The next state of an outcome, if it is one. -/
def nextOf (o : Outcome) : Option State :=
  match o with
  | .next s => some s
  | .fault _ => none
  | .refused _ => none

/-- The reset state with IBUF, LENGTH and LA_CHECK set: a host about to issue HASH. -/
def readyState (m : Memory) (n : Word) (la : Bool) : State :=
  { State.reset with ibuf := m, length := n, laCheck := la }

/-- A HASH just accepted. -/
def seedState (m : Memory) (n : Word) (la : Bool) : State :=
  { readyState m n la with fsm := .seed, lenl := n, lal := la }

/-- A HASH in its scan. -/
def scanState (m : Memory) (L : Lanes) (i n : Word) (la : Bool) : State :=
  { readyState m n la with fsm := .scan, lanes := L, idx := i, lenl := n, lal := la }

/-- A HASH at FINISH. -/
def finishState (L : Lanes) (n : Word) : State :=
  { readyState [] n false with fsm := .finish, lanes := L, idx := n, lenl := n }

/-- Bytes from IBUF index 0 on. -/
def bytesFrom (i : Nat) (bs : List Byte) : Memory :=
  match bs with
  | [] => []
  | b :: rest => (i, b) :: bytesFrom (i + 1) rest

/-- "abcd" and the byte after it. -/
def abcd : Memory := bytesFrom 0 [0x61#8, 0x62#8, 0x63#8, 0x64#8, 0x00#8]

/-- "ab/c". -/
def abSlashC : Memory := bytesFrom 0 [0x61#8, 0x62#8, 0x2F#8, 0x63#8]

/-- "ab/\0". -/
def abSlashNul : Memory := bytesFrom 0 [0x61#8, 0x62#8, 0x2F#8, 0x00#8]

/-- "abc/" and a byte after it. -/
def abcSlash (b : Byte) : Memory := bytesFrom 0 [0x61#8, 0x62#8, 0x63#8, 0x2F#8, b]

/-- {41,00,42,43}: the scan ends at index 1 (H7). -/
def shortScan : Memory := bytesFrom 0 [0x41#8, 0x00#8, 0x42#8, 0x43#8]

/-- The host about to make one transaction, in its turn. -/
def hostTurn (s : State) (t : Txn) : State := { s with host := [.txn t], turns := [.host] }

/-- The host about to write `w` to CMD, in its turn. -/
def cmdTurn (s : State) (w : Word) : State := hostTurn s (.write 0x000#32 .word w)

/-- The same byte array as `bytesFrom`, for HashFn. -/
def arr (bs : List Byte) (i : Nat) : Byte := bs.getD i 0x00#8

/-! ## WellFormed: an ill-formed term for each check -/

theorem test_canonical_refuses_nop_arg : (Instr.nop 0xAB#8).canonical = false := by decide
theorem test_canonical_refuses_hash_arg : (Instr.hash 0x01#8).canonical = false := by decide
theorem test_canonical_refuses_clear_arg : (Instr.clear 0xFF#8).canonical = false := by decide
theorem test_canonical_accepts_lookup : (Instr.lookup 0xFF#8).canonical = true := by decide
theorem test_params_refuse_small : ¬ (Params.mk 0 1).Valid := by decide
theorem test_params_refuse_unaligned : ¬ (Params.mk 4098 1).Valid := by decide
theorem test_params_refuse_large : ¬ (Params.mk 0x7FFFF004 1).Valid := by decide
theorem test_params_default : Params.default.Valid := by decide
theorem test_line_refuses_wide_immediate : Line.wellFormed (.wr8 (.ibuf 0) 0x100) = false := by decide
theorem test_line_refuses_wide_half : Line.wellFormed (.wr16 (.ibuf 0) 0x10000) = false := by decide
theorem test_line_refuses_wide_word : Line.wellFormed (.wr32 .length 0x100000000) = false := by decide
theorem test_line_refuses_wide_offset : Line.wellFormed (.rd32 (.num 0x100000000)) = false := by decide
theorem test_line_refuses_lookup_index : Line.wellFormed (.cmdLookup 256) = false := by decide
theorem test_line_refuses_length : Line.wellFormed (.hash 0x100000000) = false := by decide
theorem test_line_refuses_byte : Line.wellFormed (.bytes 0 [256]) = false := by decide
theorem test_line_refuses_char : Line.wellFormed (.str 0 ['é']) = false := by decide
theorem test_line_refuses_cfg : Line.wellFormed (.cfg 2 0) = false := by decide

/-! ## Decoding: words written out from R60 and R65 -/

theorem test_decode_nop : decodeTableWord 32 0b00000000000000001010101100000000 = some (.nop 0xAB#8) := by decide
theorem test_decode_hash : decodeTableWord 32 0b00000000000000000000000000000001 = some (.hash 0x00#8) := by decide
theorem test_decode_lookup : decodeTableWord 32 0b00000000000000001111111100000010 = some (.lookup 0xFF#8) := by decide
theorem test_decode_clear : decodeTableWord 32 0b00000000000000000000000000000011 = some (.clear 0x00#8) := by decide
theorem test_decode_rsv0_by_name : decode 0x00000010#32 = .error .rsv0 := by rfl
theorem test_decode_rsv1_by_name : decode 0x00010002#32 = .error .rsv1 := by rfl
theorem test_decode_opcode_by_name : decode 0x0000000F#32 = .error .opcode := by rfl
theorem test_encode_lookup : encode (.lookup 0xFF#8) = 0x0000FF02#32 := by decide

/-! ## Commands -/

/-- Q3: NOP with an ARG while busy leaves STATUS at 0x00000001. -/
theorem test_nop_busy :
    (nextOf (step (cmdTurn (seedState abcd 4#32 false) 0x0000AB00#32))).map State.statusWord
      = some 0x00000001#32 := by decide
/-- Q1: NOP keeps ERR. -/
theorem test_nop_keeps_err :
    (nextOf (exec (.nop 0#8) (State.reset.raiseError .short))).map State.statusWord
      = some 0x00000014#32 := by decide
/-- K3. -/
theorem test_lookup_2f :
    (nextOf (step (State.reset.withFetchWord 32 0x00002F02))).map State.lkupWord
      = some 0x00002F1C#32 := by decide
/-- K14: DONE stays. -/
theorem test_lookup_keeps_done :
    (nextOf (exec (.lookup 0#8) { State.reset with done := true, result := 0xA72C9700#32 })).map
      (fun s => (s.statusWord, s.result, s.lkupWord))
      = some (0x00000002#32, 0xA72C9700#32, 0x00000001#32) := by decide
/-- Q12. -/
theorem test_clear_all :
    (nextOf (exec (.clear 0#8) { State.reset with done := true, err := true, rej := true, errCode := 0x8#4, lkup := 0x61DA#16, result := 0x40#32 })).map
      (fun s => (s.statusWord, s.result, s.lkupWord)) = some (0#32, 0#32, 0#32) := by decide
/-- Q4. -/
theorem test_clear_busy :
    (nextOf (step (cmdTurn (seedState abcd 4#32 false) 0x00000003#32))).map
      (fun s => (s.statusWord, s.fsm)) = some (0x00000009#32, .seed) := by decide
/-- E9 and the first row of H2's step trace. -/
theorem test_hash_accept :
    (nextOf (step (cmdTurn (readyState abcd 4#32 false) 0x00000001#32))).map
      (fun s => (s.fsm, s.lenl, s.lal, s.statusWord)) = some (.seed, 4#32, false, 0x00000001#32) := by
  decide
/-- E5 with REJ = 1 beforehand. -/
theorem test_hash_size_error :
    (nextOf (exec (.hash 0#8) { readyState [] 0x80000000#32 false with rej := true, done := true })).map
      State.statusWord = some 0x0000002C#32 := by decide
/-- Q11. -/
theorem test_illegal_with_done :
    (nextOf (step (cmdTurn { State.reset with done := true } 0x00000004#32))).map State.statusWord
      = some 0x00000086#32 := by decide

/-! ## Engine steps: H2's trace -/

theorem test_seed_step :
    (nextOf (engineStep (seedState abcd 4#32 false))).map (fun s => (s.lanes, s.idx, s.fsm))
      = some (⟨0xDA#8, 0xFF#8, 0xF0#8, 0x52#8⟩, 1#32, .scan) := by decide
theorem test_fold_step :
    (nextOf (engineStep (scanState abcd ⟨0xDA#8, 0xFF#8, 0xF0#8, 0x52#8⟩ 1#32 4#32 false))).map
      (fun s => (s.lanes, s.idx, s.fsm))
      = some (⟨0x5E#8, 0xBF#8, 0x65#8, 0x0C#8⟩, 2#32, .scan) := by decide
theorem test_finish_step :
    (nextOf (engineStep (finishState ⟨0x0A#8, 0x97#8, 0x2C#8, 0xA7#8⟩ 4#32))).map
      (fun s => (s.result, s.statusWord)) = some (0xA72C9700#32, 0x00000002#32) := by decide
/-- H14's last step: error 0x4, no fold. -/
theorem test_look_ahead_error :
    (nextOf (engineStep (scanState (abcSlash 0x41#8) ⟨0x93#8, 0xCD#8, 0x84#8, 0x09#8⟩ 3#32 4#32 true))).map
      (fun s => (s.lanes, s.statusWord))
      = some (⟨0x93#8, 0xCD#8, 0x84#8, 0x09#8⟩, 0x00000044#32) := by decide
/-- H13's last fold: the separator before a byte that is not a terminator. -/
theorem test_read_past_fold :
    (nextOf (engineStep (scanState (abcSlash 0x41#8) ⟨0x93#8, 0xCD#8, 0x84#8, 0x09#8⟩ 3#32 4#32 false))).map
      State.lanes = some ⟨0xF7#8, 0x1F#8, 0xCF#8, 0x94#8⟩ := by decide

/-! ## HashFn: H1, H10, H14 -/

theorem test_hashFn_rescans :
    (hashFn (arr [0x00#8, 0x01#8, 0x02#8, 0x03#8]) 4096 4 false).toOption = some 0x2B2F0D80#32 := by
  decide
theorem test_hashFn_two_separators :
    (hashFn (arr [0x61#8, 0x62#8, 0x63#8, 0x64#8, 0x2F#8, 0x2F#8, 0x00#8]) 4096 7 false).toOption
      = some 0x8F195EC0#32 := by decide
theorem test_hashFn_checked :
    (hashFn (arr [0x61#8, 0x62#8, 0x63#8, 0x2F#8, 0x41#8]) 4096 4 true) = .error .lookAhead := by rfl

/-! ## Bus: B2, B4, B5, B13; the default agent; the disassembler (R69) -/

theorem test_byte_write_in_word :
    (nextOf (memWrite 0x1001#32 .byte 0x5A#32 (readyState (bytesFrom 0 [0x44#8, 0x33#8, 0x22#8, 0x11#8]) 0#32 false))).map
      (fun s => s.readIbuf 0 .word) = some 0x11225A44#32 := by decide
theorem test_half_read :
    (nextOf (memRead 0x1002#32 .half (readyState (bytesFrom 0 [0x44#8, 0x33#8, 0x22#8, 0x11#8]) 0#32 false))).map
      State.bus = some (some ⟨.okay, some 0x00001122#32⟩) := by decide
theorem test_misaligned_half :
    (nextOf (memRead 0x1001#32 .half State.reset)).map State.bus
      = some (some ⟨.error, some 0x00000000#32⟩) := by decide
theorem test_config_reserved_bits :
    (nextOf (memWrite 0x014#32 .word 0xFFFFFFFF#32 State.reset)).map State.configWord
      = some 0x00000003#32 := by decide
theorem test_poll_while_busy :
    (nextOf (step { seedState abcd 4#32 false with host := [.waitIdle], turns := [.host] })).map
      (fun s => (s.host, s.bus)) = some ([.waitIdle], some ⟨.okay, some 0x00000001#32⟩) := by decide
theorem test_disassemble_lookup : disassemble 0x00002F02#32 = "cmd LOOKUP 0x2f".toList := by decide
theorem test_disassemble_arg : disassemble 0x0000BB01#32 = "cmd HASH ; arg=0xbb".toList := by decide
theorem test_disassemble_illegal :
    disassemble 0xDEAD0004#32 = "wr32 CMD, 0xdead0004 ; illegal".toList := by decide

/-! ## Witnesses: states that meet the hypotheses of the statements -/

theorem readyState_inv (m : Memory) (n : Word) (la : Bool) (hm : Memory.wf 4096 m = true) :
    (readyState m n la).Inv where
  params_valid := by change Params.default.Valid; decide
  ibuf_wf := hm
  result_masked := by change (0x00000000#32 &&& 0x0000003F#32 : Word) = 0#32; decide
  code_legal := by change (0x0#4 : BitVec 4) ∈ legalErrCodes; decide
  err_iff_code := by change (false = false ↔ (0x0#4 : BitVec 4) = 0x0#4); decide
  done_idle := fun _ => rfl
  busy_no_err := fun _ => rfl
  lkup_legal := .inl rfl
  busy_len := by intro h; cases h
  scan_idx := by intro h; cases h

theorem seedState_inv (m : Memory) (n : Word) (la : Bool) (hm : Memory.wf 4096 m = true)
    (h4 : 4 ≤ n.toNat) (hn : n.toNat ≤ 4096) : (seedState m n la).Inv :=
  { readyState_inv m n la hm with
    done_idle := by intro h; cases h
    busy_no_err := fun _ => rfl
    busy_len := fun _ => ⟨h4, hn⟩
    scan_idx := by intro h; cases h }

theorem scanState_inv (m : Memory) (L : Lanes) (i n : Word) (la : Bool) (hm : Memory.wf 4096 m = true)
    (h4 : 4 ≤ n.toNat) (hn : n.toNat ≤ 4096) (hi : 1 ≤ i.toNat) (hin : i.toNat ≤ n.toNat) :
    (scanState m L i n la).Inv :=
  { readyState_inv m n la hm with
    done_idle := by intro h; cases h
    busy_no_err := fun _ => rfl
    busy_len := fun _ => ⟨h4, hn⟩
    scan_idx := fun _ => ⟨hi, hin⟩ }

/-- Lanes used where their values do not matter. -/
def zeroLanes : Lanes := ⟨0x00#8, 0x00#8, 0x00#8, 0x00#8⟩

theorem wit_EncodeDecodeRoundTrip : decode 0x0000FF02#32 = .ok (.lookup 0xFF#8) := by rfl

theorem wit_MatchMaskRowsSelectTheCommands :
    ⟨"CLEAR", 0x00000003#32, 0xFFFF00FF#32⟩ ∈ encodingTable ∧
    rowSelects ⟨"CLEAR", 0x00000003#32, 0xFFFF00FF#32⟩ 0x0000FF03#32 = true := by decide

theorem wit_TableIsPermutationWithThreeCycles : T 0xE5#8 = T 0xE5#8 ∧ T 0xE5#8 = 0x00#8 := by decide

theorem wit_NopChangesNoState :
    (∀ a, Instr.hash 0x00#8 ≠ .nop a) ∧ (seedState abcd 4#32 false).busy = true :=
  ⟨fun _ h => (by cases h), by decide⟩

theorem wit_LookupReadsOneTableEntry :
    State.reset.busy = false ∧ (seedState abcd 4#32 false).busy = true ∧
    ∃ t, exec (.lookup 0xFF#8) State.reset = .next t := ⟨by decide, by decide, _, rfl⟩

theorem wit_ClearClearsTheResults :
    State.reset.busy = false ∧ (finishState zeroLanes 4#32).busy = true ∧
    (∃ t, exec (.clear 0xFF#8) State.reset = .next t) ∧
    ∃ t, exec (.clear 0xFF#8) State.reset.reject = .next t ∧ t.rej = false :=
  ⟨by decide, by decide, ⟨_, rfl⟩, _, rfl, rfl⟩

theorem wit_HashLatchesItsOperandsAndStarts :
    ∀ n ∈ [4#32, 0x1000#32], (readyState abcd n true).busy = false ∧ 4 ≤ (readyState abcd n true).length.toNat ∧ (readyState abcd n true).length.toNat ≤ 0x7FFFFFFF ∧ (readyState abcd n true).length.toNat ≤ (readyState abcd n true).params.inSize := by
  intro n hn
  simp only [List.mem_cons, List.not_mem_nil, or_false] at hn
  have hp : (readyState abcd n true).params.inSize = 4096 := rfl
  have hl : (readyState abcd n true).length = n := rfl
  rw [hp, hl]
  rcases hn with rfl | rfl <;> exact ⟨by decide, by simp, by simp, by simp⟩

theorem wit_HashLengthErrors :
    (readyState [] 3#32 false).length.toNat < 4 ∧
    0x7FFFFFFF < (readyState [] 0x80000000#32 false).length.toNat ∧
    (∀ n ∈ [0x1001#32, 0x7FFFFFFF#32], 4 ≤ (readyState [] n false).length.toNat ∧ (readyState [] n false).length.toNat ≤ 0x7FFFFFFF ∧ (readyState [] n false).params.inSize < (readyState [] n false).length.toNat) ∧
    (readyState [] 3#32 false).busy = false ∧ (seedState [] 4#32 false).busy = true := by
  refine ⟨by decide, ?_, fun n hn => ?_, by decide, by decide⟩
  · change 0x7FFFFFFF < (0x80000000#32).toNat
    simp
  · simp only [List.mem_cons, List.not_mem_nil, or_false] at hn
    have hp : (readyState [] n false).params.inSize = 4096 := rfl
    have hl : (readyState [] n false).length = n := rfl
    rw [hp, hl]
    rcases hn with rfl | rfl <;> exact ⟨by simp, by simp, by simp⟩

theorem wit_CmdWriteDispatch :
    decode 0x0000AB00#32 = .ok (.nop 0xAB#8) ∧ decode 0x00000004#32 = .error .opcode ∧
    decode 0x00000001#32 = .ok (.hash 0x00#8) ∧ decode 0x0000FF02#32 = .ok (.lookup 0xFF#8) ∧
    decode 0x00000003#32 = .ok (.clear 0x00#8) ∧ (∀ a, decode 0x00000003#32 ≠ .ok (.nop a)) ∧
    State.reset.busy = false ∧ (seedState abcd 4#32 false).busy = true ∧
    ∃ t, memWrite 0x000#32 .word 0x00000003#32 State.reset = .next t :=
  ⟨rfl, rfl, rfl, rfl, rfl, fun _ h => (by cases h), by decide, by decide, _, rfl⟩

theorem wit_IllegalWordRaisesIllegalCommand :
    (0x00000010#32).extractLsb' 4 4 ≠ 0#4 ∧ (0x00010002#32).extractLsb' 16 16 ≠ 0#16 ∧
    4 ≤ ((0x00000004#32).extractLsb' 0 4).toNat ∧ State.reset.busy = false ∧
    State.reset.fsm = .idle ∧ State.reset.done = false ∧ State.reset.rej = false ∧
    ∃ t, dispatchCmd 0x00000004#32 State.reset = .next t :=
  ⟨by decide, by decide, by decide, by decide, rfl, rfl, rfl, _, rfl⟩

theorem wit_SeedStepLoadsTheLanes :
    (seedState abcd 4#32 false).params.Valid ∧ (seedState abcd 4#32 false).fsm = .seed := by decide

theorem wit_ScanStopsAtLength :
    (scanState abcd zeroLanes 4#32 4#32 false).Inv ∧
    (scanState abcd zeroLanes 4#32 4#32 false).fsm = .scan ∧
    (scanState abcd zeroLanes 4#32 4#32 false).idx = (scanState abcd zeroLanes 4#32 4#32 false).lenl :=
  ⟨scanState_inv _ _ _ _ _ (by decide) (by decide) (by decide) (by decide) (by decide), rfl, rfl⟩

theorem wit_ScanStopsAtTerminator :
    (scanState shortScan zeroLanes 1#32 4#32 false).Inv ∧
    (scanState shortScan zeroLanes 1#32 4#32 false).fsm = .scan ∧
    (scanState shortScan zeroLanes 1#32 4#32 false).ibufByte (1#32).toNat = 0x00#8 :=
  ⟨scanState_inv _ _ _ _ _ (by decide) (by decide) (by decide) (by decide) (by decide), rfl,
    by decide⟩

theorem wit_ScanFoldsEveryByteThatDoesNotEndIt :
    (∀ i ∈ [1#32, 3#32], (scanState abcd zeroLanes i 4#32 false).Inv ∧
      (scanState abcd zeroLanes i 4#32 false).fsm = .scan ∧ i ≠ 4#32 ∧
      (scanState abcd zeroLanes i 4#32 false).ibufByte i.toNat ≠ 0x00#8 ∧
      (scanState abcd zeroLanes i 4#32 false).ibufByte i.toNat ≠ 0x2F#8) ∧
    (scanState abSlashC zeroLanes 2#32 4#32 true).Inv ∧
    (scanState abSlashC zeroLanes 2#32 4#32 true).ibufByte 2 = 0x2F#8 ∧
    (scanState abSlashC zeroLanes 2#32 4#32 true).ibufByte 3 ≠ 0x00#8 ∧ 2 + 1 < (4#32).toNat ∧
    (scanState (abcSlash 0x61#8) zeroLanes 3#32 4#32 false).Inv ∧
    (scanState (abcSlash 0x61#8) zeroLanes 3#32 4#32 false).ibufByte 3 = 0x2F#8 ∧
    (scanState (abcSlash 0x61#8) zeroLanes 3#32 4#32 false).ibufByte 4 ≠ 0x00#8 := by
  have hi : ∀ (m : Memory) (i : Word) (la : Bool), Memory.wf 4096 m = true → 1 ≤ i.toNat →
      i.toNat ≤ 4 → (scanState m zeroLanes i 4#32 la).Inv := fun m i la h h1 h2 =>
    scanState_inv m zeroLanes i 4#32 la h (by decide) (by decide) h1 h2
  refine ⟨fun i hm => ?_, hi _ _ _ rfl (by decide) (by decide), by decide, by decide, by decide,
    hi _ _ _ rfl (by decide) (by decide), by decide, by decide⟩
  simp only [List.mem_cons, List.not_mem_nil, or_false] at hm
  rcases hm with rfl | rfl <;>
    exact ⟨hi _ _ _ rfl (by decide) (by decide), rfl, by decide, by decide, by decide⟩

theorem wit_SeparatorInsideTheString :
    (∀ m ∈ [abSlashC, abSlashNul], (scanState m zeroLanes 2#32 4#32 true).Inv ∧
      (scanState m zeroLanes 2#32 4#32 true).fsm = .scan ∧
      (scanState m zeroLanes 2#32 4#32 true).ibufByte (2#32).toNat = 0x2F#8) ∧
    (2#32).toNat + 1 < (4#32).toNat ∧
    (scanState abSlashNul zeroLanes 2#32 4#32 true).ibufByte 3 = 0x00#8 ∧
    (scanState abSlashC zeroLanes 2#32 4#32 true).ibufByte 3 ≠ 0x00#8 := by
  refine ⟨fun m hm => ?_, by decide, by decide, by decide⟩
  simp only [List.mem_cons, List.not_mem_nil, or_false] at hm
  rcases hm with rfl | rfl <;>
    exact ⟨scanState_inv _ _ _ _ _ (by decide) (by decide) (by decide) (by decide) (by decide), rfl,
      by decide⟩

/-- A string that fills IBUF: IN_SIZE = 4 (the guard byte of R86). -/
def fullState (la : Bool) : State :=
  { scanState (bytesFrom 0 [0x61#8, 0x62#8, 0x63#8, 0x2F#8]) zeroLanes 3#32 4#32 la with
    params := ⟨4, 1⟩ }

theorem fullState_inv (la : Bool) : (fullState la).Inv :=
  { scanState_inv [] zeroLanes 3#32 4#32 la rfl (by decide) (by decide) (by decide) (by decide) with
    params_valid := by change (Params.mk 4 1).Valid; decide
    ibuf_wf := rfl
    busy_len := fun _ => by change 4 ≤ (4#32).toNat ∧ (4#32).toNat ≤ 4; decide }

theorem wit_ReadPastLooksAtTheByteAfterTheString :
    (∀ b : Byte, (scanState (abcSlash b) zeroLanes 3#32 4#32 false).Inv ∧
      (scanState (abcSlash b) zeroLanes 3#32 4#32 false).ibufByte (3#32).toNat = 0x2F#8 ∧
      (scanState (abcSlash b) zeroLanes 3#32 4#32 false).ibufByte 4 = b) ∧
    (3#32).toNat + 1 = (4#32).toNat ∧ (fullState false).Inv ∧
    (fullState false).ibufByte (3#32).toNat = 0x2F#8 ∧
    (fullState false).lenl.toNat = (fullState false).params.inSize :=
  ⟨fun b => ⟨scanState_inv _ _ _ _ _ rfl (by decide) (by decide) (by decide) (by decide), rfl, rfl⟩,
    by decide, fullState_inv false, by decide, by decide⟩

theorem wit_CheckedModeRejectsTheLookAheadPastTheString :
    (scanState (abcSlash 0x00#8) zeroLanes 3#32 4#32 true).Inv ∧
    (scanState (abcSlash 0x00#8) zeroLanes 3#32 4#32 true).ibufByte (3#32).toNat = 0x2F#8 ∧
    (3#32).toNat + 1 = (4#32).toNat ∧ (fullState true).Inv ∧
    (∃ t, engineStep (scanState abSlashC zeroLanes 2#32 4#32 true) = .next t) :=
  ⟨scanState_inv _ _ _ _ _ rfl (by decide) (by decide) (by decide) (by decide), rfl, by decide,
    fullState_inv true, _, rfl⟩

theorem wit_FinishPublishesTheKey : (finishState zeroLanes 4#32).fsm = .finish := rfl

theorem wit_LanesStayEqualExactlyWhenSeedBytesAre :
    (∃ L, hashLoop (arr [0x61#8, 0x62#8, 0x63#8, 0x64#8]) 4096 4 false 4 1
      ⟨T 0x61#8, T 0x62#8, T 0x63#8, T 0x64#8⟩ = .ok L) ∧
    (seedState (abcSlash 0x41#8) 4#32 true).fsm = .seed ∧
    (∃ t, engineRun (3 + 1) (seedState (abcSlash 0x41#8) 4#32 true) = .next t ∧
      t.errCode = 0x4#4) ∧
    (∃ s', step { scanState abcd zeroLanes 1#32 4#32 false with turns := [.engine] } = .next s') ∧
    zeroLanes.matchBytes (fun _ => 0x61#8) :=
  ⟨⟨_, rfl⟩, rfl, ⟨_, rfl, by decide⟩, ⟨_, rfl⟩, by simp [Lanes.matchBytes, zeroLanes]⟩

theorem wit_TerminatorAtIndexOneGivesThePackedSeeds :
    4 ≤ 4 ∧ 4 ≤ 4096 ∧ arr [0x41#8, 0x00#8, 0x42#8, 0x43#8] 1 = 0x00#8 := by decide

theorem wit_EngineNeverFaults : (seedState abcd 4#32 true).Inv ∧ State.reset.fsm = .idle :=
  ⟨seedState_inv _ _ _ (by decide) (by decide) (by decide), rfl⟩

theorem wit_HashRunAgreesWithHashFn :
    (readyState abcd 4#32 false).Inv ∧ (readyState abcd 4#32 false).busy = false :=
  ⟨readyState_inv _ _ _ (by decide), by decide⟩

/-- A whole busy run: H7's HASH, accepted in state `u`, three engine steps to IDLE. -/
theorem wit_HashFnDecidesEveryInterleaving :
    (readyState shortScan 4#32 false).Inv ∧ (readyState shortScan 4#32 false).busy = false ∧
    ∃ u t, exec (.hash 0x00#8) (readyState shortScan 4#32 false) = .next u ∧ BusyRun u t ∧
      t.fsm = .idle :=
  ⟨readyState_inv _ _ _ (by decide), by decide, _, _, rfl,
    .step (by decide) (by decide) rfl (.step (by decide) (by decide) rfl
      (.step (by decide) (by decide) rfl (.refl _))), rfl⟩

theorem wit_AcceptedHashTakesThreeToLenlPlusTwoSteps :
    (seedState abcd 4#32 false).Inv ∧ (seedState abcd 4#32 false).fsm = .seed :=
  ⟨seedState_inv _ _ _ (by decide) (by decide) (by decide), rfl⟩

/-- H7's HASH with the engine's six turns given. -/
def fairState : State :=
  { seedState shortScan 4#32 false with
    turns := [.engine, .engine, .engine, .engine, .engine, .engine] }

theorem wit_EveryFairRunReachesIdle :
    fairState.Inv ∧ 6 ≤ fairState.turns.length ∧
    fairState.stepsLeft ≤ engineTurns (fairState.turns.take 6) ∧
    ∃ t, Host.Core.run Sys2Proof.core 6 fairState = .next t :=
  ⟨{ seedState_inv shortScan 4#32 false (by decide) (by decide) (by decide) with }, by decide,
    by decide, _, rfl⟩

theorem wit_WaitIdleEnds :
    ({ seedState abcd 4#32 false with host := [.waitIdle] } : State).Inv ∧
    ({ seedState abcd 4#32 false with host := [.waitIdle] } : State).turns = [] :=
  ⟨{ seedState_inv abcd 4#32 false (by decide) (by decide) (by decide) with }, rfl⟩

/-- Two hosts that ask for H7's hash, one with an older RESULT, LKUP and REJ. -/
theorem wit_HashOutcomeDependsOnlyOnItsOperands :
    ∃ s s' u u' t t', s.Inv ∧ s'.Inv ∧ s.busy = false ∧ s'.busy = false ∧
      s'.params.inSize = s.params.inSize ∧ s'.length = s.length ∧ s'.laCheck = s.laCheck ∧
      (∀ i < s.params.inSize, s'.ibufByte i = s.ibufByte i) ∧ s'.rej ≠ s.rej ∧
      exec (.hash 0x00#8) s = .next u ∧ exec (.hash 0xFF#8) s' = .next u' ∧
      engineRun 3 u = .next t ∧ engineRun 3 u' = .next t' ∧ t.fsm = .idle ∧ t'.fsm = .idle :=
  ⟨readyState shortScan 4#32 false,
    { readyState shortScan 4#32 false with rej := true, result := 0x40#32 }, _, _, _, _,
    readyState_inv _ _ _ (by decide),
    { readyState_inv shortScan 4#32 false (by decide) with
      result_masked := by change (0x40#32 &&& 0x3F#32 : Word) = 0#32; decide },
    by decide, by decide, rfl, rfl, rfl, fun _ _ => rfl, by decide, rfl, rfl, rfl, rfl, rfl, rfl⟩

theorem wit_EveryStepKeepsTheInvariant :
    (seedState abcd 4#32 false).Inv ∧ ∃ s', step (seedState abcd 4#32 false) = .next s' :=
  ⟨seedState_inv _ _ _ (by decide) (by decide) (by decide), _, rfl⟩

theorem wit_ResetEventSetsEveryRegister :
    ({ finishState zeroLanes 4#32 with turns := [.reset] } : State).turns = [.reset] := rfl

theorem wit_OnlyAnAcceptedHashLeavesIdle :
    (cmdTurn (readyState abcd 4#32 false) 0x00000001#32).fsm = .idle ∧
    ∃ s', step (cmdTurn (readyState abcd 4#32 false) 0x00000001#32) = .next s' ∧ s'.fsm ≠ .idle :=
  ⟨rfl, _, rfl, by decide⟩

theorem wit_RunningHashKeepsItsLatches :
    (hostTurn (seedState abcd 4#32 false) (.write 0x008#32 .word 9#32)).busy = true ∧
    ∃ s', step (hostTurn (seedState abcd 4#32 false) (.write 0x008#32 .word 9#32)) = .next s' ∧
      s'.busy = true := ⟨by decide, _, rfl, by decide⟩

theorem wit_OnlyFinishClearAndResetWriteResult :
    ∃ s', step (finishState ⟨0x0A#8, 0x97#8, 0x2C#8, 0xA7#8⟩ 4#32) = .next s' ∧
      s'.result ≠ (finishState ⟨0x0A#8, 0x97#8, 0x2C#8, 0xA7#8⟩ 4#32).result := ⟨_, rfl, by decide⟩

theorem wit_OnlyFinishSetsDone :
    (∃ s', step (finishState zeroLanes 4#32) = .next s' ∧
      (finishState zeroLanes 4#32).done = false ∧ s'.done = true) ∧
    (∃ s', step (cmdTurn { State.reset with done := true } 0x00000003#32) = .next s' ∧
      s'.done = false) := ⟨⟨_, rfl, rfl, rfl⟩, _, rfl, rfl⟩

theorem wit_RejectionIsStickyUntilClearOrReset :
    (seedState abcd 4#32 false).busy = true ∧
    nextCommand (cmdTurn (seedState abcd 4#32 false) 0x00000003#32) = some 0x00000003#32 ∧
    (∃ s', step (cmdTurn (seedState abcd 4#32 false) 0x00000003#32) = .next s' ∧ s'.rej = true) ∧
    (∃ s', step (cmdTurn { State.reset with rej := true } 0x00000003#32) = .next s' ∧
      s'.rej = false) := ⟨by decide, rfl, ⟨_, rfl, rfl⟩, _, rfl, rfl⟩

theorem wit_OnlyLookupClearAndResetWriteLkup :
    ∃ s', step (cmdTurn State.reset 0x0000FF02#32) = .next s' ∧ s'.lkup ≠ State.reset.lkup :=
  ⟨_, rfl, by decide⟩

theorem wit_OnlyHostWritesChangeIbuf :
    ∃ s', step (hostTurn (readyState abcd 4#32 false) (.write 0x1000#32 .byte 0x7F#32)) = .next s' ∧
      nextTurn (hostTurn (readyState abcd 4#32 false) (.write 0x1000#32 .byte 0x7F#32)) ≠ .powerCycle ∧
      s'.ibufByte 0 ≠ (readyState abcd 4#32 false).ibufByte 0 := ⟨_, rfl, by decide, by decide⟩

theorem wit_OnlyHostWritesChangeLengthAndConfig :
    ∃ s', step (hostTurn State.reset (.write 0x014#32 .word 0x00000003#32)) = .next s' ∧
      s'.ie = true := ⟨_, rfl, by decide⟩

theorem wit_StepRunsTheDecodedCommand :
    nextTurn (cmdTurn State.reset 0x0000FF02#32) = .host ∧
    (cmdTurn State.reset 0x0000FF02#32).host = .txn (.write 0x000#32 .word 0x0000FF02#32) :: [] ∧
    decode 0x0000FF02#32 = .ok (.lookup 0xFF#8) ∧ decode 0x00000010#32 = .error .rsv0 :=
  ⟨rfl, rfl, rfl, rfl⟩

theorem wit_NoStepStopsInsideTheWindow :
    (hostTurn (seedState abcd 4#32 false) (.read 0x1FFF#32 .byte)).Inv ∧
    nextTxn (hostTurn (seedState abcd 4#32 false) (.read 0x1FFF#32 .byte)) =
      some (.read 0x1FFF#32 .byte) ∧
    (Txn.read 0x1FFF#32 .byte).inWindow 4096 = true :=
  ⟨{ seedState_inv abcd 4#32 false (by decide) (by decide) (by decide) with }, rfl, by decide⟩

theorem wit_RegisterReads :
    ∀ off ∈ [0x018#32, 0xFFC#32], 0x018 ≤ off.toNat ∧ off.toNat ≤ 0xFFC ∧ off.toNat % 4 = 0 := by
  simp

theorem wit_LengthAndConfigReadBack :
    (∃ s', memWrite 0x008#32 .word 0xDEADBEEF#32 State.reset = .next s') ∧
    (∃ s', memWrite 0x014#32 .word 0xFFFFFFFF#32 State.reset = .next s') := ⟨⟨_, rfl⟩, _, rfl⟩

theorem wit_IbufTransactionsMoveBytesLittleEndian :
    (0x1FFF#32).toNat = 0x1000 + 4095 ∧ 4095 + Size.bytes .byte ≤ 4096 ∧
    4095 % Size.bytes .byte = 0 ∧ (0x1FFE#32).toNat = 0x1000 + 4094 ∧
    4094 + Size.bytes .half ≤ 4096 ∧ 4094 % Size.bytes .half = 0 ∧
    (0x1FFC#32).toNat = 0x1000 + 4092 ∧ 4092 + Size.bytes .word ≤ 4096 ∧
    4092 % Size.bytes .word = 0 := by decide

theorem wit_IbufWordReadsBackInBytes :
    (0x1FFC#32).toNat = 0x1000 + 4092 ∧ 4092 + 4 ≤ State.reset.params.inSize ∧
    State.reset.params.inSize ≤ 0x7FFFF000 ∧
    ∃ s', memWrite 0x1FFC#32 .word 0x11223344#32 State.reset = .next s' := by
  have hp : State.reset.params.inSize = 4096 := rfl
  have hw : ∃ s', memWrite 0x1FFC#32 .word 0x11223344#32 State.reset = .next s' := ⟨_, rfl⟩
  exact ⟨by simp, by omega, by omega, hw⟩

theorem wit_BusErrorsChangeNoState :
    ((0x006#32).toNat < 0x1000 ∧ (0x006#32).toNat % 4 ≠ 0) ∧
    ((0xFFF#32).toNat < 0x1000 ∧ Size.byte ≠ Size.word) ∧
    (0x1000 ≤ (0x1FFE#32).toNat ∧ (0x1FFE#32).toNat < 0x1000 + State.reset.params.inSize ∧
      ((0x1FFE#32).toNat - 0x1000) % Size.bytes .word ≠ 0) ∧
    ((0xFFC#32).toNat < 0x1000 ∧ (0xFFC#32).toNat % 4 = 0) ∧
    (0x1000 ≤ (0x1000#32).toNat ∧ (0x1000#32).toNat < 0x1000 + State.reset.params.inSize ∧
      ((0x1000#32).toNat - 0x1000) % Size.bytes .word = 0) := by decide

theorem wit_ReservedOffsetsReadZeroAndIgnoreWrites :
    (0x018 ≤ (0x018#32).toNat ∧ (0x018#32).toNat % 4 = 0) ∧
    ((0xFFC#32).toNat ≤ 0xFFF ∧ (0xFFC#32).toNat % 4 = 0) ∧
    ((0xFFF#32).toNat ≤ 0xFFF ∧ (0xFFF#32).toNat % 4 ≠ 0) := by decide

theorem wit_OutsideTheWindowIsRefused :
    0x1000 + State.reset.params.inSize ≤ (0x2000#32).toNat := by decide

theorem wit_WaitIdlePollsStatus :
    (seedState abcd 4#32 false).busy = true ∧ State.reset.busy = false ∧
    ({ State.reset with host := [.waitIdle] } : State).host = .waitIdle :: [] :=
  ⟨by decide, by decide, rfl⟩

/-- A host that writes the byte after IBUF[LENL] while the engine is about to seed. -/
theorem wit_HostAndEngineStepsCommute :
    (seedState abcd 4#32 false).Inv ∧ (seedState abcd 4#32 false).busy = true ∧
    (Txn.write 0x1005#32 .byte 0x7F#32).cmdWrite = none ∧
    (Txn.write 0x1005#32 .byte 0x7F#32).ibufStore 4096 = some (5, [0x7F#8]) ∧
    (4#32).toNat < 5 ∧
    (∃ s1, transact (.write 0x1005#32 .byte 0x7F#32) (seedState abcd 4#32 false) = .next s1) ∧
    (∃ s2, engineStep (seedState abcd 4#32 false) = .next s2) :=
  ⟨seedState_inv _ _ _ (by decide) (by decide) (by decide), by decide, by decide, by decide,
    by decide, ⟨_, rfl⟩, _, rfl⟩

theorem wit_InstancesDoNotInterfere :
    ∃ p q, p.schedule = 1 :: [] ∧ Platform.step p = .next q ∧ p.insts.length = 2 :=
  ⟨{ Platform.reset ⟨4096, 2⟩ with schedule := [1] }, _, rfl, rfl, by decide⟩

end Sys2Proof.Tests
end

section
/-! PROOFS. The state family: STATUS.BUSY (R27), `irq` (R35), and the life of STATUS.REJ (R30). -/

namespace Sys2Proof.Machine

/-! ## BUSY and irq -/

/-- FSM has three states besides IDLE (R20). -/
theorem Fsm.ne_idle_iff (f : Fsm) : f ≠ .idle ↔ f = .seed ∨ f = .scan ∨ f = .finish := by
  cases f <;> decide

/-- Settles O55, from the laws on BUSY and on bit 0 of STATUS. -/
theorem busyIsDerivedFromFsm : Obligations.BusyIsDerivedFromFsm := fun s =>
  ⟨s.busy_eq_true_iff.trans s.fsm.ne_idle_iff, s.busy_eq_false_iff, s.statusWord_bit0⟩

theorem State.irq_eq_true_iff (s : State) :
    s.irq = true ↔ s.ie = true ∧ (s.done = true ∨ s.err = true) := by
  rw [State.irq, Bool.and_eq_true, Bool.or_eq_true]

/-- `irq` is a function of IE, DONE and ERR alone (R35). -/
theorem State.irq_congr {s t : State} (hie : t.ie = s.ie) (hdone : t.done = s.done)
    (herr : t.err = s.err) : t.irq = s.irq := by
  rw [State.irq, State.irq, hie, hdone, herr]

/-- Settles O56: REJ is not among the fields that `irq` reads. -/
theorem irqIsLevelOfEnabledDoneOrErr : Obligations.IrqIsLevelOfEnabledDoneOrErr := fun s =>
  ⟨s.irq_eq_true_iff, fun _ => State.irq_congr rfl rfl rfl⟩

/-! ## The step of a CMD write -/

theorem Txn.cmdWrite_eq_some_iff (t : Txn) (w : Word) :
    t.cmdWrite = some w ↔ t = .write cmdOffset .word w := by
  cases t with
  | read off size => simp [Txn.cmdWrite]
  | write off size v => simp [Txn.cmdWrite_write, and_assoc]

theorem nextTxn_eq_some_iff (s : State) (t : Txn) :
    nextTxn s = some t ↔ nextTurn s = .host ∧ ∃ ops, s.host = .txn t :: ops := by
  unfold nextTxn
  split <;> simp_all

/-- The coming step writes `w` to CMD exactly when it is the host's and such a write stands first. -/
theorem nextCommand_eq_some_iff (s : State) (w : Word) :
    nextCommand s = some w ↔
      nextTurn s = .host ∧ ∃ ops, s.host = .txn (.write cmdOffset .word w) :: ops := by
  simp only [nextCommand, Option.bind_eq_some_iff, Txn.cmdWrite_eq_some_iff, exists_eq_right,
    nextTxn_eq_some_iff]

theorem memWrite_cmd (w : Word) (s : State) :
    memWrite cmdOffset .word w s = dispatchCmd w (s.respond okayWrite) := rfl

/-- A step that writes `w` to CMD dispatches it (R99), with the turn and the transaction used up and the
response OKAY driven. -/
theorem step_of_nextCommand {s : State} {w : Word} (h : nextCommand s = some w) :
    step s = dispatchCmd w
      (((s.setTurns s.turns.tail).setHost s.host.tail).respond okayWrite) := by
  obtain ⟨hturn, ops, hhost⟩ := (nextCommand_eq_some_iff s w).1 h
  calc step s
    _ = hostStep (s.setTurns s.turns.tail) := by rw [step_eq, hturn, takeTurn]
    _ = memWrite cmdOffset .word w ((s.setTurns s.turns.tail).setHost ops) := by
      rw [hostStep, State.setTurns_host, hhost]; rfl
    _ = _ := by rw [memWrite_cmd, hhost, List.tail_cons]

theorem dispatchCmd_busy {s : State} {w : Word} (hb : s.busy = true)
    (hn : ∀ a, decode w ≠ .ok (.nop a)) : dispatchCmd w s = .next s.reject := by
  rcases dispatchCmd_cases w s with ⟨a, ha, -⟩ | ⟨-, -, hr⟩ | ⟨hi, -⟩ | ⟨hi, -⟩ | ⟨hi, -⟩ | ⟨hi, -⟩
  · exact absurd ha (hn a)
  · exact hr
  all_goals simp [hb] at hi

/-! ## What a step does to REJ (R30) -/

/-- The coming step writes a non-NOP word to CMD while BUSY = 1. -/
def State.rejectsNext (s : State) : Prop :=
  s.busy = true ∧ ∃ w, nextCommand s = some w ∧ ∀ a, decode w ≠ .ok (.nop a)

/-- The coming step writes a CLEAR to CMD while the engine is idle. -/
def State.clearsNext (s : State) : Prop :=
  s.busy = false ∧ ∃ w a, nextCommand s = some w ∧ decode w = .ok (.clear a)

@[simp] theorem acceptHash_rej (s : State) : (acceptHash s).rej = s.rej := by
  rcases acceptHash_cases s with ⟨c, -, h⟩ | ⟨-, h⟩ <;> rw [h] <;> rfl

/-- A HASH that runs never touches REJ, however its step ends. -/
theorem engineStep_rej {s s' : State} (h : engineStep s = .next s') : s'.rej = s.rej := by
  rcases engineStep_cases h with ⟨-, rfl⟩ | ⟨-, L, rfl⟩ | ⟨-, -, rfl⟩ | ⟨-, b, -, rfl⟩ |
    ⟨-, -, rfl⟩ | ⟨-, rfl⟩ <;> rfl

/-- Of the host's effects only a rejection and a CLEAR write REJ. -/
theorem HostEffect.rej {s p s' : State} (h : HostEffect s p s') :
    s'.rej = p.rej ∨ (s.rejectsNext ∧ s'.rej = true) ∨ (s.clearsNext ∧ s'.rej = false) := by
  cases h with
  | rejected w cmd notNop busy => exact .inr (.inl ⟨⟨busy, w, cmd, notNop⟩, rfl⟩)
  | clear w a cmd dec idle => exact .inr (.inr ⟨⟨idle, w, a, cmd, dec⟩, rfl⟩)
  | hash w a cmd dec idle => exact .inl (acceptHash_rej p)
  | _ => exact .inl rfl

/-- Every step keeps REJ, or it is one of the three that write it. -/
theorem step_rej {s s' : State} (h : step s = .next s') :
    s'.rej = s.rej ∨ (s.rejectsNext ∧ s'.rej = true) ∨
    ((s.resetsNext = true ∨ s.clearsNext) ∧ s'.rej = false) := by
  obtain ⟨p, hp, ⟨-, he⟩ | ⟨-, he⟩ | ⟨hn, rfl⟩ | ⟨hn, rfl⟩⟩ := step_cases h
  · rw [← hp.rej]
    exact he.rej.imp_right (Or.imp_right (And.imp_left .inr))
  · exact .inl ((engineStep_rej he).trans hp.rej)
  · exact .inr (.inr ⟨.inl (by simp [State.resetsNext, hn]), rfl⟩)
  · exact .inr (.inr ⟨.inl (by simp [State.resetsNext, hn]), rfl⟩)

/-- Settles O41: the first clause runs the rejected word's step, the other two read off `step_rej` which
steps write REJ. -/
theorem rejectionIsStickyUntilClearOrReset : Obligations.RejectionIsStickyUntilClearOrReset := by
  refine ⟨fun s s' w h hb hw hn => ?_, fun s s' h h0 h1 => ?_, fun s s' h h1 h0 => ?_⟩
  · have henv := (((EnvOnly.refl s).setTurns s.turns.tail).setHost s.host.tail).respond okayWrite
    rw [step_of_nextCommand hw, dispatchCmd_busy (henv.busy.trans hb) hn] at h
    cases h
    rfl
  · rcases step_rej h with hk | ⟨hr, -⟩ | ⟨-, hf⟩
    · simp [hk, h0] at h1
    · exact hr
    · simp [hf] at h1
  · rcases step_rej h with hk | ⟨-, ht⟩ | ⟨hc, -⟩
    · simp [hk, h1] at h0
    · simp [ht] at h0
    · exact hc

end Sys2Proof.Machine
end

section
/-! PROOFS. The memory family: the reserved offsets of the register block (R46). -/

namespace Sys2Proof.Machine

/-! ## Transactions by region -/

/-- An aligned 4-byte read below IBUF returns the register at its offset (R103). -/
theorem memRead_register {off : Word} (s : State) (h : off.toNat < ibufBase)
    (ha : off.toNat % 4 = 0) :
    memRead off .word s = .next (s.respond (okayRead (s.readReg (regAt off.toNat)))) := by
  rw [memRead, regionOf_register.2 ⟨rfl, h, rfl, ha⟩]

/-- An aligned 4-byte write below IBUF goes to the register at its offset (R104). -/
theorem memWrite_register {off : Word} (v : Word) (s : State) (h : off.toNat < ibufBase)
    (ha : off.toNat % 4 = 0) :
    memWrite off .word v s = writeReg (regAt off.toNat) v (s.respond okayWrite) := by
  rw [memWrite, regionOf_register.2 ⟨rfl, h, rfl, ha⟩]

theorem memRead_busError {off : Word} {size : Size} {s : State}
    (h : regionOf s.params.inSize off size = .busError) :
    memRead off size s = .next (s.respond errorRead) := by
  rw [memRead, h]

theorem memWrite_busError {off : Word} {size : Size} {s : State} (v : Word)
    (h : regionOf s.params.inSize off size = .busError) :
    memWrite off size v s = .next (s.respond errorWrite) := by
  rw [memWrite, h]

/-! ## Reserved offsets -/

/-- The named registers end at CONFIG, whose offset is 0x014 (R24, R46). -/
theorem regAt_reserved {o : Nat} (h : 0x018 ≤ o) : regAt o = .reserved := by
  have hne : ∀ {n : Nat}, n < 0x018 → o ≠ n := fun hn => by omega
  simp [regAt, hne]

/-- Settles O53: an aligned 4-byte access reaches the reserved register, any other the bus error. -/
theorem reservedOffsetsReadZeroAndIgnoreWrites :
    Obligations.ReservedOffsetsReadZeroAndIgnoreWrites := by
  intro s off size v hlo hhi
  have hbase : off.toNat < ibufBase := Nat.lt_succ_of_le hhi
  constructor
  · rintro rfl ha
    rw [memRead_register s hbase ha, memWrite_register v s hbase ha, regAt_reserved hlo]
    exact ⟨rfl, rfl⟩
  · intro hbad
    have herr : regionOf s.params.inSize off size = .busError :=
      regionOf_busError.2 (.inl ⟨hbase, not_and_or.2 hbad⟩)
    exact ⟨memRead_busError herr, memWrite_busError v herr⟩

end Sys2Proof.Machine
end

section
/-! PROOFS. The encoding's side of the commands: a command's word decodes to the command, and what the
mask 0xFFFF00FF keeps of a word (R60, R64, R65). -/

namespace Sys2Proof

/-- OP and RSV0 make up the low byte of a command's word (R60). -/
theorem encode_eq_append (i : Instr) : encode i = 0#16 ++ i.operand ++ (0#4 ++ i.opcode) :=
  BitVec.append_assoc

/-- LOOKUP's word is `0x0000bb02` (R73). -/
theorem encode_lookup (b : Byte) : encode (.lookup b) = 0#16 ++ b ++ 0x02#8 := by
  have hlow : 0#4 ++ 0x2#4 = 0x02#8 := by decide
  rw [encode_eq_append, Instr.operand, Instr.opcode, hlow]

theorem decode_encode (i : Instr) : decode (encode i) = .ok i :=
  (decode_eq_ok_iff _ _).2
    ⟨opField_encode i, rsv0Field_encode i, rsv1Field_encode i, argField_encode i⟩

theorem word_eq_iff_fields (v w : Word) :
    v = w ↔ opField v = opField w ∧ rsv0Field v = rsv0Field w ∧ argField v = argField w ∧
      rsv1Field v = rsv1Field w :=
  ⟨by rintro rfl; exact ⟨rfl, rfl, rfl, rfl⟩, fun ⟨h0, h1, h2, h3⟩ => word_eq_of_fields h0 h1 h2 h3⟩

@[simp] theorem opField_masked (w : Word) : opField (w &&& 0xFFFF00FF#32) = opField w := by
  rw [opField, BitVec.extractLsb'_and]
  exact BitVec.and_allOnes

@[simp] theorem rsv0Field_masked (w : Word) : rsv0Field (w &&& 0xFFFF00FF#32) = rsv0Field w := by
  rw [rsv0Field, BitVec.extractLsb'_and]
  exact BitVec.and_allOnes

@[simp] theorem argField_masked (w : Word) : argField (w &&& 0xFFFF00FF#32) = 0#8 := by
  rw [argField, BitVec.extractLsb'_and]
  exact BitVec.and_zero

@[simp] theorem rsv1Field_masked (w : Word) : rsv1Field (w &&& 0xFFFF00FF#32) = rsv1Field w := by
  rw [rsv1Field, BitVec.extractLsb'_and]
  exact BitVec.and_allOnes

/-- A word's masked bits are a command's match bits `m` (its opcode alone) exactly when the word decodes to
that command with the ARG the mask drops (R65). -/
theorem masked_eq_iff_decode {w m : Word} {i : Instr} (harg : i.operand = argField w)
    (hm : opField m = i.opcode ∧ rsv0Field m = 0#4 ∧ argField m = 0#8 ∧ rsv1Field m = 0#16) :
    w &&& 0xFFFF00FF#32 = m ↔ decode w = .ok i := by
  obtain ⟨hop, hrsv0, hzero, hrsv1⟩ := hm
  simp [word_eq_iff_fields, decode_eq_ok_iff, harg, hop, hrsv0, hzero, hrsv1]

end Sys2Proof
end

section
/-! PROOFS. The lookup family: the command LOOKUP (R73). -/

namespace Sys2Proof.Machine

/-! ## Commands on an idle and on a busy engine -/

theorem exec_lookup_idle (b : Byte) {s : State} (h : s.busy = false) :
    exec (.lookup b) s = .next (lookupEntry b s) :=
  congrArg Host.Outcome.next (State.whenIdle_idle h _)

theorem exec_lookup_busy (b : Byte) {s : State} (h : s.busy = true) :
    exec (.lookup b) s = .next s.reject :=
  congrArg Host.Outcome.next (State.whenIdle_busy h _)

/-- A command's word, written to CMD, runs the command (R99). -/
theorem dispatchCmd_encode (i : Instr) (s : State) : dispatchCmd (encode i) s = exec i s := by
  rw [dispatchCmd, decode_encode]

/-! ## What the host reads -/

theorem State.statusWord_eq_zero {s : State} (hbusy : s.busy = false) (hdone : s.done = false)
    (herr : s.err = false) (hrej : s.rej = false) (hcode : s.errCode = 0x0#4) :
    s.statusWord = 0x00000000#32 := by
  rw [State.statusWord, hbusy, hdone, herr, hrej, hcode]
  rfl

/-- LKUP after LOOKUP reads the index in bits 15:8 and its entry in bits 7:0 (R33, R73). -/
theorem lookupEntry_lkupWord (b : Byte) (s : State) :
    (lookupEntry b s).lkupWord = 0#16 ++ b ++ T b :=
  BitVec.append_assoc'

theorem lookupEntry_statusWord (b : Byte) {s : State} (hbusy : s.busy = false)
    (hdone : s.done = false) (hrej : s.rej = false) :
    (lookupEntry b s).statusWord = 0x00000000#32 :=
  State.statusWord_eq_zero hbusy hdone rfl hrej rfl

/-- An index and its entry are never both zero, because T(0x00) = 0x01 (R73). -/
theorem append_T_ne_zero (b : Byte) : b ++ T b ≠ 0x0000#16 := by
  intro h
  have hindex : b = 0x00#8 := by
    rw [← BitVec.extractLsb'_append_eq_left (a := b) (b := T b), h]
    rfl
  have hentry : T b = 0x00#8 := by
    rw [← BitVec.extractLsb'_append_eq_right (a := b) (b := T b), h]
    rfl
  rw [hindex] at hentry
  exact absurd hentry (by decide)

/-- Settles O8: the effect and the drop are those of the busy test, the words those of the encoding laws,
and the three entries are read from the table. -/
theorem lookupReadsOneTableEntry : Obligations.LookupReadsOneTableEntry := by
  refine ⟨fun b _ h => exec_lookup_idle b h, fun b _ h => exec_lookup_busy b h, ?_, ?_, rfl,
    append_T_ne_zero, encode_lookup, ?_, by decide, by decide, by decide⟩
  · intro b s t hb ht
    obtain rfl : lookupEntry b s = t := by simpa [exec_lookup_idle b hb] using ht
    exact ⟨lookupEntry_lkupWord b s, lookupEntry_statusWord b hb⟩
  · intro b s
    exact (memWrite_cmd _ s).trans (dispatchCmd_encode (.lookup b) _)
  · intro w
    exact masked_eq_iff_decode rfl ⟨rfl, rfl, rfl, rfl⟩

end Sys2Proof.Machine
end

section
/-! PROOFS. The hash family: the accepting step of HASH on a bad length (R79 to R81), the engine's steps
SEED, SCAN and FINISH (R83 to R88, R90), and the packing and masking of the lanes (R89, R91). -/

namespace Sys2Proof.Machine

/-! ## The length errors -/

theorem lengthCheck_short {inSize n : Nat} (h : n < seedLen) :
    lengthCheck inSize n = some .short :=
  if_pos h

theorem lengthCheck_size {inSize n : Nat} (h : sizeLimit < n) :
    lengthCheck inSize n = some .size := by
  have hlong : ¬ n < seedLen := Nat.not_lt.2 (Nat.le_trans (by decide) h.le)
  rw [lengthCheck, if_neg hlong, if_pos h]

theorem lengthCheck_buffer {inSize n : Nat} (hlong : seedLen ≤ n) (hsize : n ≤ sizeLimit)
    (h : inSize < n) : lengthCheck inSize n = some .buffer := by
  rw [lengthCheck, if_neg hlong.not_gt, if_neg hsize.not_gt, if_pos h]

/-- A length that fails its check ends the HASH in its accepting step, on the state alone: IBUF is not
read (R79, R80). -/
theorem exec_hash_lengthError (a : Byte) {s : State} {c : ErrCode} (hidle : s.busy = false)
    (hc : lengthCheck s.params.inSize s.length.toNat = some c) :
    exec (.hash a) s = .next (s.clearDone.beginCommand.raiseError c) :=
  calc exec (.hash a) s
    _ = .next (acceptHash s) := congrArg Host.Outcome.next (State.whenIdle_idle hidle _)
    _ = _ := by rw [acceptHash, hc]

theorem exec_hash_busy (a : Byte) {s : State} (h : s.busy = true) :
    exec (.hash a) s = .next s.reject :=
  congrArg Host.Outcome.next (State.whenIdle_busy h _)

/-- A word above SIZE_LIMIT is one whose bit 31 is set (R80). -/
theorem sizeLimit_lt_iff_bit31 (n : Word) : sizeLimit < n.toNat ↔ n.getLsbD 31 = true :=
  calc sizeLimit < n.toNat
    _ ↔ n.msb = true := by rw [BitVec.msb_eq_decide, decide_eq_true_eq]; rfl
    _ ↔ n.getLsbD 31 = true := by rw [BitVec.msb_eq_getLsbD_last]

/-- Settles O11: each clause is one outcome of the length check. -/
theorem hashLengthErrors : Obligations.HashLengthErrors :=
  ⟨fun a _ hidle h => exec_hash_lengthError a hidle (lengthCheck_short h),
   fun a _ hidle h => exec_hash_lengthError a hidle (lengthCheck_size h),
   fun s => sizeLimit_lt_iff_bit31 s.length,
   fun a _ hidle hlong hsize h => exec_hash_lengthError a hidle (lengthCheck_buffer hlong hsize h),
   fun a _ hbusy => exec_hash_busy a hbusy⟩

/-! ## The engine's step by FSM; SEED and FINISH -/

theorem engineStep_seed {s : State} (h : s.fsm = .seed) : engineStep s = seedStep s := by
  rw [engineStep, h]

theorem engineStep_scan {s : State} (h : s.fsm = .scan) : engineStep s = scanStep s := by
  rw [engineStep, h]

theorem engineStep_finish {s : State} (h : s.fsm = .finish) : engineStep s = finishStep s := by
  rw [engineStep, h]

/-- Settles O15: a legal IN_SIZE is at least 4, so the four reads exist. -/
theorem seedStepLoadsTheLanes : Obligations.SeedStepLoadsTheLanes := fun _ hvalid hfsm =>
  (engineStep_seed hfsm).trans (seedStep_of_valid hvalid)

/-- Settles O21: the published word is the masked key. -/
theorem finishPublishesTheKey : Obligations.FinishPublishesTheKey := fun _ hfsm =>
  engineStep_finish hfsm

/-! ## The verdict of a SCAN step -/

theorem State.busy_of_scan {s : State} (hscan : s.fsm = .scan) : s.busy = true :=
  s.busy_eq_true_iff.2 (by simp [hscan])

/-- In SCAN the index is at most LENL and LENL at most IN_SIZE (R21, R81). -/
theorem State.Inv.scan_bounds {s : State} (hi : s.Inv) (hscan : s.fsm = .scan) :
    s.idx.toNat ≤ s.lenl.toNat ∧ s.lenl.toNat ≤ s.params.inSize :=
  ⟨(hi.scan_idx hscan).2, (hi.busy_len (State.busy_of_scan hscan)).2⟩

theorem State.Inv.idx_lt_lenl {s : State} (hi : s.Inv) (hscan : s.fsm = .scan)
    (hne : s.idx ≠ s.lenl) : s.idx.toNat < s.lenl.toNat :=
  lt_of_le_of_ne (hi.scan_bounds hscan).1 fun h => hne (BitVec.eq_of_toNat_eq h)

/-- While a HASH runs, ERR is 0 and ERRCODE with it (R29). -/
theorem State.Inv.scan_no_error {s : State} (hi : s.Inv) (hscan : s.fsm = .scan) :
    s.err = false ∧ s.errCode = 0x0#4 := by
  have herr : s.err = false := hi.busy_no_err (State.busy_of_scan hscan)
  exact ⟨herr, hi.err_iff_code.1 herr⟩

theorem scanVerdict_at_end {s : State} (h : s.idx = s.lenl) : scanVerdict s = .stop :=
  if_pos h

/-- Below LENL the byte at IDX is read and classified (R44, R84). -/
theorem scanVerdict_below_end {s : State} (hi : s.Inv) (hscan : s.fsm = .scan)
    (hlt : s.idx.toNat < s.lenl.toNat) :
    scanVerdict s = byteVerdict s s.idx.toNat (s.ibufByte s.idx.toNat) := by
  have hne : s.idx ≠ s.lenl := fun h => hlt.ne (congrArg BitVec.toNat h)
  have hread := State.engineRead_of_lt (hlt.trans_le (hi.scan_bounds hscan).2)
  rw [scanVerdict, if_neg hne, hread]

theorem byteVerdict_term (s : State) (i : Nat) : byteVerdict s i term = .stop :=
  if_pos rfl

theorem byteVerdict_sep (s : State) (i : Nat) :
    byteVerdict s i sep = sepVerdict sep (s.lookAhead i) := by
  have hne : sep ≠ term := by decide
  rw [byteVerdict, if_neg hne, if_pos rfl]

theorem byteVerdict_other (s : State) (i : Nat) {b : Byte} (hterm : b ≠ term) (hsep : b ≠ sep) :
    byteVerdict s i b = .fold b := by
  rw [byteVerdict, if_neg hterm, if_neg hsep]

/-! ## The step a verdict makes -/

theorem engineStep_of_stop {s : State} (hscan : s.fsm = .scan) (hv : scanVerdict s = .stop) :
    engineStep s = .next s.endScan := by
  rw [engineStep_scan hscan, scanStep, hv]

theorem engineStep_of_fold {s : State} {b : Byte} (hscan : s.fsm = .scan)
    (hv : scanVerdict s = .fold b) : engineStep s = .next (s.advance (foldLanes b s.lanes)) := by
  rw [engineStep_scan hscan, scanStep, hv]

theorem engineStep_of_fail {s : State} (hscan : s.fsm = .scan) (hv : scanVerdict s = .fail) :
    engineStep s = .next (s.raiseError .lookAhead) := by
  rw [engineStep_scan hscan, scanStep, hv]

/-- Settles O16: at LENL nothing is read, and below it the byte read is the terminator. -/
theorem scanStopsAtLengthOrTerminator : Obligations.ScanStopsAtLengthOrTerminator := by
  intro s hi hscan hstop
  by_cases hend : s.idx = s.lenl
  · exact engineStep_of_stop hscan (scanVerdict_at_end hend)
  · have hbyte : s.ibufByte s.idx.toNat = term := hstop.resolve_left hend
    apply engineStep_of_stop hscan
    rw [scanVerdict_below_end hi hscan (hi.idx_lt_lenl hscan hend), hbyte, byteVerdict_term]

/-! ## The look-ahead of a separator -/

/-- Inside the string the look-ahead is the next byte, in either mode (R85). -/
theorem lookAhead_inside {s : State} {i : Nat} (hin : i + 1 < s.lenl.toNat)
    (hle : s.lenl.toNat ≤ s.params.inSize) : s.lookAhead i = .byte (s.ibufByte (i + 1)) := by
  rw [State.lookAhead, if_pos hin, State.engineRead_of_lt (hin.trans_le hle), LookAhead.ofRead]

/-- READ_PAST at the end of the string: the byte after it, or the guard (R86). -/
theorem lookAhead_readPast {s : State} {i : Nat} (hend : i + 1 = s.lenl.toNat)
    (hlal : s.lal = false) (hle : s.lenl.toNat ≤ s.params.inSize) :
    s.lookAhead i =
      .byte (if s.lenl.toNat < s.params.inSize then s.ibufByte s.lenl.toNat else laGuard) := by
  rw [State.lookAhead, if_neg hend.not_lt, if_neg (by simp [hlal])]
  split_ifs with hfull hlt hlt
  · exact absurd hfull hlt.ne
  · rfl
  · rw [State.engineRead_of_lt hlt, LookAhead.ofRead]
  · exact absurd (hle.antisymm (Nat.not_lt.1 hlt)) hfull

/-- CHECKED at the end of the string (R87). -/
theorem lookAhead_checked {s : State} {i : Nat} (hend : i + 1 = s.lenl.toNat)
    (hlal : s.lal = true) : s.lookAhead i = .outOfBounds := by
  rw [State.lookAhead, if_neg hend.not_lt, if_pos hlal]

/-- The look-ahead is the byte at the next index, in the string or, in READ_PAST mode, just after it
(R85, R86). -/
theorem lookAhead_next {s : State} (hi : s.Inv) (hscan : s.fsm = .scan)
    (hlt : s.idx.toNat < s.lenl.toNat)
    (h : s.idx.toNat + 1 < s.lenl.toNat ∨ (s.lal = false ∧ s.lenl.toNat < s.params.inSize)) :
    s.lookAhead s.idx.toNat = .byte (s.ibufByte (s.idx.toNat + 1)) := by
  have hle := (hi.scan_bounds hscan).2
  rcases Nat.lt_or_eq_of_le (Nat.succ_le_of_lt hlt) with hin | hend
  · exact lookAhead_inside hin hle
  · obtain ⟨hlal, hroom⟩ := h.resolve_left hend.not_lt
    rw [lookAhead_readPast hend hlal hle, if_pos hroom, ← hend]

theorem scanVerdict_separator {s : State} (hi : s.Inv) (hscan : s.fsm = .scan)
    (hlt : s.idx.toNat < s.lenl.toNat) (hsep : s.ibufByte s.idx.toNat = sep) :
    scanVerdict s = sepVerdict sep (s.lookAhead s.idx.toNat) := by
  rw [scanVerdict_below_end hi hscan hlt, hsep, byteVerdict_sep]

/-- A separator with look-ahead byte `nx` ends the scan when `nx` is the terminator and is folded
otherwise, wherever `nx` comes from (R85, R86). -/
theorem engineStep_separator {s : State} {nx : Byte} (hi : s.Inv) (hscan : s.fsm = .scan)
    (hlt : s.idx.toNat < s.lenl.toNat) (hsep : s.ibufByte s.idx.toNat = sep)
    (hla : s.lookAhead s.idx.toNat = .byte nx) :
    (nx = term → engineStep s = .next s.endScan) ∧
    (nx ≠ term → engineStep s = .next (s.advance (foldLanes sep s.lanes))) := by
  have hv : scanVerdict s = sepVerdict sep (.byte nx) := by
    rw [scanVerdict_separator hi hscan hlt hsep, hla]
  exact ⟨fun h => engineStep_of_stop hscan (hv.trans (if_pos h)),
    fun h => engineStep_of_fold hscan (hv.trans (if_neg h))⟩

/-- Settles O19: the look-ahead of the last separator is the given byte. -/
theorem readPastLooksAtTheByteAfterTheString :
    Obligations.ReadPastLooksAtTheByteAfterTheString := by
  rintro s nx hi hscan hsep hend hlal rfl
  have hlt : s.idx.toNat < s.lenl.toNat := Nat.lt_of_succ_le hend.le
  exact engineStep_separator hi hscan hlt hsep
    (lookAhead_readPast hend hlal (hi.scan_bounds hscan).2)

/-- Settles O20: the look-ahead past the string is out of bounds; inside it the step only stops or folds,
and either keeps the error fields, which are clear while a HASH runs. -/
theorem checkedModeRejectsTheLookAheadPastTheString :
    Obligations.CheckedModeRejectsTheLookAheadPastTheString := by
  constructor
  · intro s hi hscan hsep hend hlal
    have hlt : s.idx.toNat < s.lenl.toNat := Nat.lt_of_succ_le hend.le
    apply engineStep_of_fail hscan
    rw [scanVerdict_separator hi hscan hlt hsep, lookAhead_checked hend hlal, sepVerdict]
  · intro s t hi hscan hsep hin hlal ht
    obtain ⟨hstop, hfold⟩ := engineStep_separator hi hscan (Nat.lt_of_succ_lt hin) hsep
      (lookAhead_inside hin (hi.scan_bounds hscan).2)
    by_cases hnx : s.ibufByte (s.idx.toNat + 1) = term
    · cases (hstop hnx).symm.trans ht
      exact hi.scan_no_error hscan
    · cases (hfold hnx).symm.trans ht
      exact hi.scan_no_error hscan

/-- Settles O17: a byte is folded because it is neither special byte, or as a separator whose look-ahead is
no terminator. -/
theorem scanFoldsEveryByteThatDoesNotEndIt : Obligations.ScanFoldsEveryByteThatDoesNotEndIt := by
  rintro s b hi hscan hne rfl hterm hla
  have hlt := hi.idx_lt_lenl hscan hne
  refine ⟨?_, idx_succ_toNat hlt, hlt⟩
  by_cases hsep : s.ibufByte s.idx.toNat = sep
  · obtain ⟨hnx, hwhere⟩ := hla hsep
    have hstep := (engineStep_separator hi hscan hlt hsep (lookAhead_next hi hscan hlt hwhere)).2 hnx
    rwa [← hsep] at hstep
  · exact engineStep_of_fold hscan
      ((scanVerdict_below_end hi hscan hlt).trans (byteVerdict_other s _ hterm hsep))

/-! ## Packing and masking -/

theorem or_reverse (a b c d : Word) : d ||| c ||| b ||| a = a ||| b ||| c ||| d := by
  ac_rfl

/-- Settles O22: appending is shifting by the widths below and joining by OR, from the highest lane down. -/
theorem packingIsLittleEndian : Obligations.PackingIsLittleEndian := by
  refine fun L => ⟨rfl, ?_⟩
  calc pack32 L
    _ = (pack32 L).setWidth 32 := (BitVec.setWidth_eq _).symm
    _ = L.l3.setWidth 32 <<< 24 ||| L.l2.setWidth 32 <<< 16 ||| L.l1.setWidth 32 <<< 8
          ||| L.l0.setWidth 32 :=
      BitVec.setWidth_append_append_append_eq_shiftLeft_setWidth_or
    _ = _ := or_reverse _ _ _ _

theorem pack32_byte1 (L : Lanes) : (pack32 L).extractLsb' 8 8 = L.l1 := by
  rw [pack32, BitVec.extractLsb'_append_eq_of_le (by decide)]
  exact BitVec.extractLsb'_append_eq_right

theorem pack32_byte2 (L : Lanes) : (pack32 L).extractLsb' 16 8 = L.l2 := by
  rw [pack32, BitVec.extractLsb'_append_eq_of_le (by decide),
    BitVec.extractLsb'_append_eq_of_le (by decide)]
  exact BitVec.extractLsb'_append_eq_right

theorem pack32_byte3 (L : Lanes) : (pack32 L).extractLsb' 24 8 = L.l3 := by
  rw [pack32, BitVec.extractLsb'_append_eq_of_le (by decide),
    BitVec.extractLsb'_append_eq_of_le (by decide)]
  exact BitVec.extractLsb'_append_eq_left

/-- The mask has bits 5:0 clear and the others set (R91). -/
theorem resultMask_getLsbD : ∀ k < 32, resultMask.getLsbD k = decide (6 ≤ k) := by decide

theorem maskedKey_getLsbD (L : Lanes) {k : Nat} (hk : k < 32) :
    (maskedKey L).getLsbD k = ((pack32 L).getLsbD k && decide (6 ≤ k)) := by
  rw [maskedKey, BitVec.getLsbD_and, resultMask_getLsbD k hk]

/-- A byte that the mask covers with ones passes the masker. -/
theorem maskedKey_byte (L : Lanes) {i : Nat} (h : resultMask.extractLsb' i 8 = BitVec.allOnes 8) :
    (maskedKey L).extractLsb' i 8 = (pack32 L).extractLsb' i 8 := by
  rw [maskedKey, BitVec.extractLsb'_and, h, BitVec.and_allOnes]

/-- Settles O23: the mask's bits decide which bits of the packed value stay. -/
theorem maskerClearsTheLowSixBits : Obligations.MaskerClearsTheLowSixBits := by
  refine fun L => ⟨rfl, fun k hk => ?_, fun k hlo hk => ?_,
    (maskedKey_byte L (by decide)).trans (pack32_byte1 L),
    (maskedKey_byte L (by decide)).trans (pack32_byte2 L),
    (maskedKey_byte L (by decide)).trans (pack32_byte3 L)⟩
  · rw [maskedKey_getLsbD L (hk.trans (by decide)), decide_eq_false hk.not_ge, Bool.and_false]
  · rw [maskedKey_getLsbD L hk, decide_eq_true hlo, Bool.and_true]

end Sys2Proof.Machine
end

section
/-! PROOFS. The control family: NOP (R100), CLEAR (R101), ILLEGAL words (R102), the dispatch of a CMD
write (R99), IBUF transactions (R105) and bus errors (R106). -/

namespace Sys2Proof

/-! ## Words of the commands that ignore ARG -/

/-- The words a match pattern `m` selects are those that decode to the command with some ARG (R62, R65). -/
theorem masked_eq_iff_exists_decode {m : Word} (C : Byte → Instr) (harg : ∀ a, (C a).operand = a)
    (hm : ∀ a, opField m = (C a).opcode ∧ rsv0Field m = 0#4 ∧ argField m = 0#8 ∧ rsv1Field m = 0#16)
    (w : Word) : w &&& 0xFFFF00FF#32 = m ↔ ∃ a, decode w = .ok (C a) := by
  rw [masked_eq_iff_decode (harg (argField w)) (hm _)]
  refine ⟨fun h => ⟨_, h⟩, fun ⟨a, h⟩ => ?_⟩
  obtain ⟨-, -, -, hoperand⟩ := (decode_eq_ok_iff w (C a)).1 h
  rwa [hoperand, harg]

theorem Instr.opcode_lt_four (i : Instr) : i.opcode.toNat < 4 := by
  cases i <;> simp [Instr.opcode]

/-- No command's word has a reserved field set or a reserved opcode (R64). -/
theorem decode_error_of_reserved {w : Word}
    (h : rsv0Field w ≠ 0#4 ∨ rsv1Field w ≠ 0#16 ∨ 4 ≤ (opField w).toNat) :
    ∃ e, decode w = .error e := by
  cases hd : decode w with
  | error e => exact ⟨e, rfl⟩
  | ok i =>
    obtain ⟨hop, hrsv0, hrsv1, -⟩ := (decode_eq_ok_iff w i).1 hd
    have hlt : (opField w).toNat < 4 := hop ▸ i.opcode_lt_four
    rcases h with h | h | h
    · exact absurd hrsv0 h
    · exact absurd hrsv1 h
    · exact absurd hlt h.not_gt

end Sys2Proof

namespace Sys2Proof.Machine

/-! ## CMD dispatch -/

theorem dispatchCmd_of_ok {w : Word} {i : Instr} (h : decode w = .ok i) (s : State) :
    dispatchCmd w s = exec i s := by
  rw [dispatchCmd, h]

theorem dispatchCmd_illegal_idle {w : Word} {s : State} (h : ∃ e, decode w = .error e)
    (hidle : s.busy = false) : dispatchCmd w s = .next (raiseIllegal s) := by
  obtain ⟨e, he⟩ := h
  rw [dispatchCmd, he, illegalWord, State.whenIdle_idle hidle]

/-- A busy engine drops every command but NOP (R99). -/
theorem exec_busy {i : Instr} {s : State} (hbusy : s.busy = true) (hn : ∀ a, i ≠ .nop a) :
    exec i s = .next s.reject := by
  rw [← dispatchCmd_encode]
  exact dispatchCmd_busy hbusy (by simpa [decode_encode] using hn)

@[simp] theorem acceptHash_bus (s : State) : (acceptHash s).bus = s.bus := by
  rcases acceptHash_cases s with ⟨c, -, h⟩ | ⟨-, h⟩ <;> rw [h] <;> rfl

/-- Every command word completes, and none touches the response its write has driven (R99). -/
theorem dispatchCmd_completes (w : Word) (s : State) :
    ∃ t, dispatchCmd w s = .next t ∧ t.bus = s.bus := by
  rcases dispatchCmd_cases w s with ⟨a, -, h⟩ | ⟨-, -, h⟩ | ⟨-, -, h⟩ | ⟨-, -, h⟩ | ⟨-, b, -, h⟩ |
    ⟨-, -, h⟩
  case inr.inr.inr.inl => exact ⟨_, h, acceptHash_bus s⟩
  all_goals exact ⟨_, h, rfl⟩

/-- Settles O12: the write dispatches its word on the state with the response OKAY driven, and each clause
is one outcome of the dispatch. -/
theorem cmdWriteDispatch : Obligations.CmdWriteDispatch := by
  rintro w s r rfl
  have hwrite : memWrite 0x000#32 .word w s = dispatchCmd w (s.respond okayWrite) := memWrite_cmd w s
  rw [hwrite]
  refine ⟨fun _ hd => dispatchCmd_of_ok hd _, fun hn hbusy => dispatchCmd_busy hbusy hn,
    fun hidle => ⟨fun e hd => dispatchCmd_illegal_idle ⟨e, hd⟩ hidle,
      fun _ hd => dispatchCmd_of_ok hd _, fun _ hd => dispatchCmd_of_ok hd _,
      fun _ hd => dispatchCmd_of_ok hd _⟩, fun t ht => ?_⟩
  obtain ⟨t', ht', hbus⟩ := dispatchCmd_completes w (s.respond okayWrite)
  cases ht'.symm.trans ht
  exact hbus

/-! ## IBUF transactions and bus errors -/

theorem Size.bytes_pos (size : Size) : 0 < size.bytes := by
  cases size <;> decide

theorem memRead_buffer {off : Word} {size : Size} {s : State} {i : Nat}
    (h : regionOf s.params.inSize off size = .buffer i) :
    memRead off size s = .next (s.respond (okayRead (s.readIbuf i size))) := by
  rw [memRead, h]

theorem memWrite_buffer {off : Word} {size : Size} {s : State} {i : Nat} (v : Word)
    (h : regionOf s.params.inSize off size = .buffer i) :
    memWrite off size v s = .next ((s.respond okayWrite).writeIbuf i (writeData size v)) := by
  rw [memWrite, h]

theorem pack32_byte0 (L : Lanes) : (pack32 L).extractLsb' 0 8 = L.l0 :=
  BitVec.extractLsb'_append_eq_right

/-- Byte `k` of four packed bytes is the `k`-th (R47). -/
theorem pack32_byte (f : Nat → Byte) :
    ∀ k < 4, (pack32 ⟨f 0, f 1, f 2, f 3⟩).extractLsb' (8 * k) 8 = f k
  | 0, _ => pack32_byte0 _
  | 1, _ => pack32_byte1 _
  | 2, _ => pack32_byte2 _
  | 3, _ => pack32_byte3 _

/-- Byte `k` of what a read of `size` at index `i` returns: a byte of IBUF, or 0 above the size (R48). -/
def State.loadByte (s : State) (i : Nat) (size : Size) (k : Nat) : Byte :=
  if k < size.bytes then s.ibufByte (i + k) else 0x00#8

/-- A read of any size is four packed bytes, those above its size 0 (R48, R105). -/
theorem State.readIbuf_eq_pack32 (s : State) (i : Nat) (size : Size) :
    s.readIbuf i size = pack32 ⟨s.loadByte i size 0, s.loadByte i size 1, s.loadByte i size 2,
      s.loadByte i size 3⟩ := by
  have h24 : 0#24 = 0x00#8 ++ 0x00#8 ++ 0x00#8 := by decide
  have h16 : 0#16 = 0x00#8 ++ 0x00#8 := by decide
  cases size with
  | byte => exact congrArg (· ++ s.ibufByte i) h24
  | half => exact congrArg (· ++ s.ibufByte (i + 1) ++ s.ibufByte i) h16
  | word => rfl

theorem writeData_getElem {size : Size} {j : Nat} (v : Word) (h : j < (writeData size v).length) :
    (writeData size v)[j] = wordByte v j := by
  have hmap : writeData size v = (List.range size.bytes).map (wordByte v) := by
    cases size <;> rfl
  simp [hmap]

/-- IBUF after a write transaction: the data's bytes at its indices, the others as they were (R105). -/
theorem State.ibufByte_writeIbuf_writeData (s : State) (i : Nat) (size : Size) (v : Word) (k : Nat) :
    (s.writeIbuf i (writeData size v)).ibufByte k =
      if i ≤ k ∧ k < i + size.bytes then wordByte v (k - i) else s.ibufByte k := by
  rw [← writeData_length size v]
  split_ifs with h
  · rw [s.ibufByte_writeIbuf_inside _ h.1 h.2, writeData_getElem]
  · exact s.ibufByte_writeIbuf_outside _ (by omega)

/-- Settles O50: an aligned transaction that fits reaches IBUF at its index, where the laws on reads and
writes of IBUF give the bytes. -/
theorem ibufTransactionsMoveBytesLittleEndian :
    Obligations.IbufTransactionsMoveBytesLittleEndian := by
  intro s off size i v hoff hfit halign
  have hin : i < s.params.inSize := (Nat.lt_add_of_pos_right size.bytes_pos).trans_le hfit
  have hreg : regionOf s.params.inSize off size = .buffer i :=
    regionOf_buffer.2 ⟨hoff, hin, halign⟩
  refine ⟨⟨_, memRead_buffer hreg, fun k hk => ?_⟩, _, memWrite_buffer v hreg, rfl,
    (s.respond okayWrite).ibufByte_writeIbuf_writeData i size v⟩
  rw [s.readIbuf_eq_pack32]
  exact pack32_byte (s.loadByte i size) k hk

/-- A write to any register completes and keeps the response (R104). -/
theorem writeReg_completes (r : Reg) (v : Word) (s : State) :
    ∃ t, writeReg r v s = .next t ∧ t.bus = s.bus := by
  cases r with
  | cmd => exact dispatchCmd_completes v s
  | _ => exact ⟨_, rfl, rfl⟩

/-- Settles O52: the wrong widths and alignments are the region of bus errors; every other transaction in
the window reaches a register or IBUF. -/
theorem busErrorsChangeNoState : Obligations.BusErrorsChangeNoState := by
  constructor
  · intro s off size v hbad
    have herr : regionOf s.params.inSize off size = .busError :=
      regionOf_busError.2 (hbad.imp_left (And.imp_right not_and_or.2))
    exact ⟨memRead_busError herr, memWrite_busError v herr⟩
  · rintro s off size v (⟨hbase, rfl, halign⟩ | ⟨hbase, hin, halign⟩)
    · refine ⟨⟨_, memRead_register s hbase halign⟩, ?_⟩
      rw [memWrite_register v s hbase halign]
      exact writeReg_completes _ v (s.respond okayWrite)
    · have hreg : regionOf s.params.inSize off size = .buffer (off.toNat - ibufBase) :=
        regionOf_buffer.2 ⟨(Nat.add_sub_cancel' hbase).symm, Nat.sub_lt_left_of_lt_add hbase hin,
          halign⟩
      exact ⟨⟨_, memRead_buffer hreg⟩, _, memWrite_buffer v hreg, rfl⟩

/-! ## NOP, CLEAR and ILLEGAL words -/

/-- With an ILLEGAL_CMD error standing, every command but NOP changes ERRCODE: HASH of length 0 raises
another error, LOOKUP and CLEAR leave none (R29). -/
theorem exec_changes_errCode {i : Instr} (hn : ∀ a, i ≠ .nop a) :
    ∃ t, exec i (State.reset.raiseError .illegalCmd) = .next t ∧
      t.errCode ≠ (State.reset.raiseError .illegalCmd).errCode := by
  have hnone : 0x0#4 ≠ ErrCode.code .illegalCmd := (ErrCode.code_ne_zero _).symm
  cases i with
  | nop a => exact absurd rfl (hn a)
  | hash a => exact ⟨_, rfl, by decide⟩
  | lookup b => exact ⟨_, rfl, hnone⟩
  | clear a => exact ⟨_, rfl, hnone⟩

/-- Settles O7: NOP makes no busy test, every other command does. -/
theorem nopChangesNoState : Obligations.NopChangesNoState :=
  ⟨fun _ _ => rfl,
   fun _ hn => ⟨fun _ hbusy => exec_busy hbusy hn, _,
     (exec_changes_errCode hn).imp fun _ h => ⟨rfl, h⟩⟩,
   rfl, masked_eq_iff_exists_decode .nop (fun _ => rfl) (fun _ => ⟨rfl, rfl, rfl, rfl⟩), rfl, _, rfl⟩

theorem exec_clear_idle (a : Byte) {s : State} (h : s.busy = false) :
    exec (.clear a) s = .next s.clearResults :=
  congrArg Host.Outcome.next (State.whenIdle_idle h _)

/-- Only CLEAR takes REJ from 1 to 0 (R30). -/
theorem exec_clears_rej {i : Instr} {s t : State} (h : exec i s = .next t) (h1 : s.rej = true)
    (h0 : t.rej = false) : ∃ a, i = .clear a := by
  rw [← dispatchCmd_encode] at h
  rcases dispatchCmd_cases (encode i) s with ⟨a, -, hr⟩ | ⟨-, -, hr⟩ | ⟨-, -, hr⟩ | ⟨-, -, hr⟩ |
    ⟨-, b, -, hr⟩ | ⟨-, ⟨a, ha⟩, -⟩
  case inr.inr.inr.inr.inr => exact ⟨a, by simpa [decode_encode] using ha⟩
  all_goals cases hr.symm.trans h; simp [raiseIllegal, lookupEntry, h1] at h0

/-- Settles O9: the effect of CLEAR, and what STATUS and `irq` make of it. -/
theorem clearClearsTheResults : Obligations.ClearClearsTheResults := by
  refine ⟨fun a _ h => exec_clear_idle a h, ?_, fun a _ h => exec_busy h (by simp),
    fun _ _ _ => exec_clears_rej, rfl,
    masked_eq_iff_exists_decode .clear (fun _ => rfl) (fun _ => ⟨rfl, rfl, rfl, rfl⟩)⟩
  intro a s t hidle ht
  cases (exec_clear_idle a hidle).symm.trans ht
  exact ⟨State.statusWord_eq_zero hidle rfl rfl rfl rfl, Bool.and_false s.ie⟩

/-- On an idle engine the error entry's write of FSM changes nothing (R102, R116). -/
theorem raiseIllegal_of_idle {s : State} (h : s.fsm = .idle) :
    raiseIllegal s = { s with err := true, errCode := 0x8#4 } := by
  cases s
  cases h
  rfl

theorem raiseIllegal_statusWord {s : State} (hdone : s.done = false) (hrej : s.rej = false) :
    (raiseIllegal s).statusWord = 0x00000084#32 := by
  simp [State.statusWord, State.busy, raiseIllegal, ErrCode.code, hdone, hrej]

/-- Settles O13: such a word does not decode, and the error it raises writes ERR and ERRCODE. -/
theorem illegalWordRaisesIllegalCommand : Obligations.IllegalWordRaisesIllegalCommand := by
  constructor
  · intro w s hw hidle
    rw [dispatchCmd_illegal_idle (decode_error_of_reserved hw) hidle,
      raiseIllegal_of_idle (s.busy_eq_false_iff.1 hidle)]
  · intro s t hidle hdone hrej ht
    have hstep := dispatchCmd_illegal_idle (w := 0x00000004#32) ⟨_, rfl⟩ (s.busy_eq_false_iff.2 hidle)
    cases hstep.symm.trans ht
    exact raiseIllegal_statusWord hdone hrej

end Sys2Proof.Machine
end

section
/-! PROOFS. The exception family: the error entry (R116), and what BUSY and `irq` are after it. -/

namespace Sys2Proof.Machine

@[simp] theorem State.raiseError_busy (s : State) (c : ErrCode) : (s.raiseError c).busy = false :=
  (State.busy_eq_false_iff _).2 (State.raiseError_fsm s c)

/-- ERR is 1 after the error entry, so DONE plays no part and IE alone decides `irq` (R35, R116). -/
@[simp] theorem State.raiseError_irq (s : State) (c : ErrCode) : (s.raiseError c).irq = s.ie := by
  rw [State.irq, State.raiseError_err, State.raiseError_ie, Bool.or_true, Bool.and_true]

/-- Settles O14: the update is the definition of the error entry, BUSY and `irq` follow from the FSM,
ERR and IE it leaves, and the codes are the rows of R110. -/
theorem errorEntryWritesOnlyErrCodeAndFsm : Obligations.ErrorEntryWritesOnlyErrCodeAndFsm :=
  ⟨fun c s => ⟨rfl, s.raiseError_busy c, s.raiseError_irq c⟩, rfl, rfl, rfl, rfl, rfl⟩

end Sys2Proof.Machine
end

section
/-! PROOFS. The encoding: the round trips (R62, R64), the match and mask rows (R65), and the ILLEGAL
words (R64). -/

namespace Sys2Proof

/-- Settles O1, from the fields of a command's word. -/
theorem decodeEncodeRoundTrip : Obligations.DecodeEncodeRoundTrip := decode_encode

/-- Settles O2: the word and the command's word agree in each of the four fields. -/
theorem encodeDecodeRoundTrip : Obligations.EncodeDecodeRoundTrip := by
  intro w i h
  obtain ⟨hop, hrsv0, hrsv1, harg⟩ := (decode_eq_ok_iff w i).1 h
  exact word_eq_of_fields ((opField_encode i).trans hop.symm)
    ((rsv0Field_encode i).trans hrsv0.symm) ((argField_encode i).trans harg.symm)
    ((rsv1Field_encode i).trans hrsv1.symm)

/-- The opcode map has an entry for each of the opcodes 0 to 3 (R62). -/
theorem exists_instr_of_opcode_lt {op : BitVec 4} (h : op.toNat < 4) (a : Byte) :
    ∃ i : Instr, i.opcode = op ∧ i.operand = a := by
  have hop : op = 0x0#4 ∨ op = 0x1#4 ∨ op = 0x2#4 ∨ op = 0x3#4 := by
    simp only [← BitVec.toNat_inj, BitVec.toNat_ofNat]
    omega
  rcases hop with rfl | rfl | rfl | rfl
  · exact ⟨.nop a, rfl, rfl⟩
  · exact ⟨.hash a, rfl, rfl⟩
  · exact ⟨.lookup a, rfl, rfl⟩
  · exact ⟨.clear a, rfl, rfl⟩

theorem decode_error_iff_reserved (w : Word) :
    (∃ e, decode w = .error e) ↔
      (rsv0Field w ≠ 0#4 ∨ rsv1Field w ≠ 0#16 ∨ 4 ≤ (opField w).toNat) := by
  refine ⟨fun ⟨e, he⟩ => ?_, decode_error_of_reserved⟩
  by_contra hok
  simp only [not_or, not_not, not_le] at hok
  obtain ⟨hrsv0, hrsv1, hop⟩ := hok
  obtain ⟨i, hi, ha⟩ := exists_instr_of_opcode_lt hop (argField w)
  cases he.symm.trans ((decode_eq_ok_iff w i).2 ⟨hi.symm, hrsv0, hrsv1, ha.symm⟩)

/-- Settles O4: the fields are those of the decoder. -/
theorem reservedFieldsAndOpcodesAreIllegal : Obligations.ReservedFieldsAndOpcodesAreIllegal :=
  decode_error_iff_reserved

/-- Settles O5: the decoder is run on each word. -/
theorem wordsOfTheSpecDecode : Obligations.WordsOfTheSpecDecode :=
  ⟨rfl, rfl, rfl, rfl, rfl, rfl, rfl, rfl⟩

/-! ## The rows of R65 -/

theorem Instr.opcode_eq_of_mnemonic {i j : Instr} (h : i.mnemonic = j.mnemonic) :
    i.opcode = j.opcode := by
  cases i <;> cases j <;> simp [Instr.mnemonic] at h <;> rfl

/-- A row whose match bits are the word of a command `i` but for ARG selects the words that decode to a
command of `i`'s name. -/
theorem rowSelects_iff_of_command {r : EncodingRow} {w : Word} {i : Instr}
    (harg : i.operand = argField w) (hname : i.mnemonic = r.mnemonic) (hmask : r.mask = 0xFFFF00FF#32)
    (hm : opField r.matchBits = i.opcode ∧ rsv0Field r.matchBits = 0#4 ∧
      argField r.matchBits = 0#8 ∧ rsv1Field r.matchBits = 0#16) :
    rowSelects r w = true ↔ ∃ j, decode w = .ok j ∧ j.mnemonic = r.mnemonic := by
  rw [rowSelects, beq_iff_eq, hmask, masked_eq_iff_decode harg hm]
  refine ⟨fun h => ⟨i, h, hname⟩, fun ⟨j, h, hj⟩ => ?_⟩
  obtain ⟨hop, hrsv0, hrsv1, -⟩ := (decode_eq_ok_iff w j).1 h
  have hij : j.opcode = i.opcode := Instr.opcode_eq_of_mnemonic (hj.trans hname.symm)
  exact (decode_eq_ok_iff w i).2 ⟨hop.trans hij, hrsv0, hrsv1, harg.symm⟩

/-- A row selects exactly the words that decode to the command of its mnemonic (R65). -/
theorem rowSelects_iff {r : EncodingRow} (hr : r ∈ encodingTable) (w : Word) :
    rowSelects r w = true ↔ ∃ i, decode w = .ok i ∧ i.mnemonic = r.mnemonic := by
  simp only [encodingTable, List.mem_cons, List.not_mem_nil, or_false] at hr
  rcases hr with rfl | rfl | rfl | rfl
  · exact rowSelects_iff_of_command (i := .nop (argField w)) rfl rfl rfl ⟨rfl, rfl, rfl, rfl⟩
  · exact rowSelects_iff_of_command (i := .hash (argField w)) rfl rfl rfl ⟨rfl, rfl, rfl, rfl⟩
  · exact rowSelects_iff_of_command (i := .lookup (argField w)) rfl rfl rfl ⟨rfl, rfl, rfl, rfl⟩
  · exact rowSelects_iff_of_command (i := .clear (argField w)) rfl rfl rfl ⟨rfl, rfl, rfl, rfl⟩

/-- Every command has a row. -/
theorem exists_row (i : Instr) : ∃ r ∈ encodingTable, i.mnemonic = r.mnemonic := by
  cases i <;> simp [encodingTable, Instr.mnemonic]

/-- The mnemonics of the rows differ. -/
theorem row_eq_of_mnemonic :
    ∀ r ∈ encodingTable, ∀ r' ∈ encodingTable, r.mnemonic = r'.mnemonic → r = r' := by
  decide

/-- No row selects a word exactly when it decodes to no command. -/
theorem no_row_selects_iff (w : Word) :
    (∀ r ∈ encodingTable, rowSelects r w = false) ↔ ∃ e, decode w = .error e := by
  constructor
  · intro h
    cases hd : decode w with
    | error e => exact ⟨e, rfl⟩
    | ok i =>
      obtain ⟨r, hr, hname⟩ := exists_row i
      exact absurd ((rowSelects_iff hr w).2 ⟨i, hd, hname⟩) (by simp [h r hr])
  · rintro ⟨e, he⟩ r hr
    refine Bool.eq_false_iff.2 fun hsel => ?_
    obtain ⟨i, hi, -⟩ := (rowSelects_iff hr w).1 hsel
    cases he.symm.trans hi

/-- Settles O3: a row is its command's, a word decodes to one command at most, and mnemonics differ. -/
theorem matchMaskRowsSelectTheCommands : Obligations.MatchMaskRowsSelectTheCommands := by
  refine ⟨fun w => ⟨masked_eq_iff_decode rfl ⟨rfl, rfl, rfl, rfl⟩,
    masked_eq_iff_decode rfl ⟨rfl, rfl, rfl, rfl⟩, masked_eq_iff_decode rfl ⟨rfl, rfl, rfl, rfl⟩,
    masked_eq_iff_decode rfl ⟨rfl, rfl, rfl, rfl⟩, no_row_selects_iff w, ?_⟩,
    rfl, rfl, rfl, rfl, rfl⟩
  intro r hr r' hr' h h'
  obtain ⟨i, hi, hname⟩ := (rowSelects_iff hr w).1 h
  obtain ⟨j, hj, hname'⟩ := (rowSelects_iff hr' w).1 h'
  cases hi.symm.trans hj
  exact row_eq_of_mnemonic r hr r' hr' (hname.symm.trans hname')

end Sys2Proof
end

section
/-! PROOFS. The invariant: the reset state meets it and every step keeps it (R21, R29, R32, R33, R81,
R131). -/

namespace Sys2Proof.Machine

/-- Settles O34: the fields of the reset state are 0 and its parameters the defaults. -/
theorem resetStateMeetsTheInvariant : Obligations.ResetStateMeetsTheInvariant where
  params_valid := by decide
  ibuf_wf := rfl
  result_masked := by decide
  code_legal := by decide
  err_iff_code := by decide
  done_idle := fun _ => rfl
  busy_no_err := fun _ => rfl
  lkup_legal := .inl rfl
  busy_len := by decide
  scan_idx := by decide

/-! ## Commands -/

theorem State.Inv.raiseIllegal {s : State} (hi : s.Inv) : (raiseIllegal s).Inv :=
  hi.beginCommand.raiseError .illegalCmd

theorem State.Inv.lookupEntry {s : State} (hi : s.Inv) (b : Byte) : (lookupEntry b s).Inv :=
  { hi.beginCommand with lkup_legal := lkupLegal_lookup b }

theorem lengthCheck_eq_none_iff (inSize n : Nat) :
    lengthCheck inSize n = none ↔ seedLen ≤ n ∧ n ≤ sizeLimit ∧ n ≤ inSize := by
  refine ⟨fun h => ?_, fun ⟨hlong, hsize, hfits⟩ => ?_⟩
  · rcases lengthCheck_cases inSize n with ⟨-, hc⟩ | ⟨-, -, hc⟩ | ⟨-, -, -, hc⟩ |
      ⟨hlong, hsize, hfits, -⟩
    case inr.inr.inr => exact ⟨hlong, hsize, hfits⟩
    all_goals cases hc.symm.trans h
  · rw [lengthCheck, if_neg hlong.not_gt, if_neg hsize.not_gt, if_neg hfits.not_gt]

/-- HASH latches a length that passed the checks, with DONE and the error cleared (R78, R81). -/
theorem State.Inv.latchHash {s : State} (hi : s.Inv)
    (hlen : lengthCheck s.params.inSize s.length.toNat = none) :
    s.clearDone.beginCommand.latchHash.Inv where
  params_valid := hi.params_valid
  ibuf_wf := hi.ibuf_wf
  result_masked := hi.result_masked
  code_legal := hi.clearDone.beginCommand.code_legal
  err_iff_code := hi.clearDone.beginCommand.err_iff_code
  done_idle := by simp
  busy_no_err := fun _ => rfl
  lkup_legal := hi.lkup_legal
  busy_len := fun _ => by
    obtain ⟨hlong, -, hfits⟩ := (lengthCheck_eq_none_iff _ _).1 hlen
    exact ⟨hlong, hfits⟩
  scan_idx := by simp

theorem State.Inv.acceptHash {s : State} (hi : s.Inv) : (acceptHash s).Inv := by
  rcases acceptHash_cases s with ⟨c, -, h⟩ | ⟨hlen, h⟩ <;> rw [h]
  · exact hi.clearDone.beginCommand.raiseError c
  · exact hi.latchHash hlen

/-- A store of an aligned transaction stays inside IBUF (R51). -/
theorem State.Inv.storeTxn {s : State} (hi : s.Inv) {off : Word} {size : Size} {i : Nat}
    (hreg : regionOf s.params.inSize off size = .buffer i) (v : Word) :
    (s.writeIbuf i (writeData size v)).Inv := by
  obtain ⟨-, hin, halign⟩ := regionOf_buffer.1 hreg
  apply hi.writeIbuf
  rw [writeData_length]
  exact aligned_inside hi.params_valid.2.1 hin halign

theorem HostEffect.inv {s p s' : State} (h : HostEffect s p s') (henv : EnvOnly s p) (hi : p.Inv) :
    s'.Inv := by
  cases h with
  | none => exact hi
  | rejected => exact hi.reject
  | illegal => exact hi.raiseIllegal
  | hash => exact hi.acceptHash
  | lookup _ b => exact hi.lookupEntry b
  | clear => exact hi.clearResults
  | length v => exact hi.setLength v
  | config v => exact hi.setConfig v
  | store off size v i txn reg => exact hi.storeTxn (henv.params ▸ reg) v

/-! ## Engine steps -/

/-- While a HASH runs DONE is 0 (R131). -/
theorem State.Inv.busy_not_done {s : State} (hi : s.Inv) (hb : s.busy = true) : s.done = false :=
  Bool.eq_false_iff.2 fun hd => s.busy_eq_true_iff.1 hb (hi.done_idle hd)

/-- Each busy state of FSM keeps what the invariant says of a running HASH; SCAN needs its index. -/
theorem State.Inv.startScan {s : State} (hi : s.Inv) (hb : s.busy = true) (L : Lanes) :
    (s.startScan L).Inv :=
  { hi with
    done_idle := fun hd => absurd hd (by simp [hi.busy_not_done hb])
    busy_no_err := fun _ => hi.busy_no_err hb
    busy_len := fun _ => hi.busy_len hb
    scan_idx := fun _ => ⟨Nat.le_refl 1, Nat.le_trans (show 1 ≤ seedLen by decide) (hi.busy_len hb).1⟩ }

theorem State.Inv.endScan {s : State} (hi : s.Inv) (hb : s.busy = true) : s.endScan.Inv :=
  { hi with
    done_idle := fun hd => absurd hd (by simp [hi.busy_not_done hb])
    busy_no_err := fun _ => hi.busy_no_err hb
    busy_len := fun _ => hi.busy_len hb
    scan_idx := by simp }

/-- A fold below LENL moves IDX to at most LENL (R21, R88). -/
theorem State.Inv.advance {s : State} (hi : s.Inv) (hlt : s.idx.toNat < s.lenl.toNat) (L : Lanes) :
    (s.advance L).Inv :=
  { hi with
    scan_idx := fun _ => by
      rw [State.advance_idx, idx_succ_toNat hlt]
      exact ⟨Nat.le_add_left 1 _, hlt⟩ }

theorem State.Inv.publish {s : State} (hi : s.Inv) (L : Lanes) : (s.publish (maskedKey L)).Inv :=
  { hi with
    result_masked := maskedKey_masked L
    done_idle := fun _ => rfl
    busy_no_err := by intro h; cases h
    busy_len := by intro h; cases h
    scan_idx := by simp }

theorem State.Inv.engineStep {s s' : State} (hi : s.Inv) (h : engineStep s = .next s') : s'.Inv := by
  rcases engineStep_cases h with ⟨-, rfl⟩ | ⟨hf, L, rfl⟩ | ⟨hf, -, rfl⟩ | ⟨hf, b, hv, rfl⟩ |
    ⟨-, -, rfl⟩ | ⟨-, rfl⟩
  · exact hi
  · exact hi.startScan (s.busy_eq_true_iff.2 (by simp [hf])) L
  · exact hi.endScan (State.busy_of_scan hf)
  · exact hi.advance (hi.idx_lt_lenl hf (scanVerdict_fold hv).1) _
  · exact hi.raiseError .lookAhead
  · exact hi.publish _

/-! ## Every step -/

theorem State.Inv.step {s s' : State} (hi : s.Inv) (h : step s = .next s') : s'.Inv := by
  obtain ⟨p, henv, ⟨-, he⟩ | ⟨-, he⟩ | ⟨-, rfl⟩ | ⟨-, rfl⟩⟩ := step_cases h
  · exact he.inv henv (hi.envOnly henv)
  · exact (hi.envOnly henv).engineStep he
  · exact (hi.envOnly henv).resetEvent
  · exact (hi.envOnly henv).losePower.resetEvent

/-- `s` with the fields the engine writes as `e` has them (R83 to R90, R116). -/
def State.withEngine (s e : State) : State :=
  { s with
    lanes := e.lanes
    idx := e.idx
    fsm := e.fsm
    done := e.done
    err := e.err
    errCode := e.errCode
    result := e.result }

/-- The frame of an engine turn. -/
theorem engineStep_frame {s s' : State} (h : engineStep s = .next s') : s' = s.withEngine s' := by
  rcases engineStep_cases h with ⟨-, rfl⟩ | ⟨-, L, rfl⟩ | ⟨-, -, rfl⟩ | ⟨-, b, -, rfl⟩ |
    ⟨-, -, rfl⟩ | ⟨-, rfl⟩ <;> rfl

/-- `s` with the fields the accepting step of HASH writes as `t` has them (R78). -/
def State.withAccept (s t : State) : State :=
  { s with done := t.done, err := t.err, errCode := t.errCode, lenl := t.lenl, lal := t.lal, fsm := t.fsm }

/-- The frame of HASH's accepting step. -/
theorem acceptHash_frame (s : State) : acceptHash s = s.withAccept (acceptHash s) := by
  rcases acceptHash_cases s with ⟨c, -, h⟩ | ⟨-, h⟩ <;> rw [h] <;> rfl

theorem HostEffect.params {s p s' : State} (h : HostEffect s p s') : s'.params = p.params := by
  cases h with
  | hash => exact (congrArg State.params (acceptHash_frame p)).trans rfl
  | _ => rfl

/-- No step changes the parameters (R7). -/
theorem step_params {s s' : State} (h : step s = .next s') : s'.params = s.params := by
  obtain ⟨p, henv, ⟨-, he⟩ | ⟨-, he⟩ | ⟨-, rfl⟩ | ⟨-, rfl⟩⟩ := step_cases h
  · exact he.params.trans henv.params
  · exact (congrArg State.params (engineStep_frame he)).trans henv.params
  · exact henv.params
  · exact henv.params

/-- Settles O33: each operation a step is built of keeps the invariant. -/
theorem everyStepKeepsTheInvariant : Obligations.EveryStepKeepsTheInvariant := fun _ _ hi h =>
  ⟨hi.step h, step_params h⟩

end Sys2Proof.Machine
end

section
/-! PROOFS. Reset and power-on (R38, R127, R128), the step of a CMD write (R99), and the accepting step
of HASH on a legal length (R78). -/

namespace Sys2Proof.Machine

/-! ## Reset and power-on -/

theorem State.resetEvent_statusWord (s : State) : s.resetEvent.statusWord = 0x00000000#32 :=
  State.statusWord_eq_zero rfl rfl rfl rfl rfl

theorem State.resetEvent_irq (s : State) : s.resetEvent.irq = false := rfl

/-- Settles O35: the update is the definition of the event, and a reset turn runs it on the state with the
turn used up. -/
theorem resetEventSetsEveryRegister : Obligations.ResetEventSetsEveryRegister := by
  refine fun s => ⟨rfl, s.resetEvent_statusWord, s.resetEvent_irq, fun ts hturns => ?_⟩
  have hnext : nextTurn s = .reset := by rw [nextTurn, hturns]
  rw [step_eq, hnext, hturns]
  rfl

/-- Settles O36: no byte is written at reset or after a loss of power, so each is its draw (R45). -/
theorem powerOnStateIsResetWithIbufFree : Obligations.PowerOnStateIsResetWithIbufFree :=
  ⟨rfl, rfl, rfl, rfl, fun i => State.ibufByte_unwritten _ i rfl,
   fun s i => State.ibufByte_unwritten s.powerCycle i rfl, fun _ => rfl⟩

/-! ## The step of a CMD write -/

/-- A write of `w` to CMD at the head of the host's list is dispatched in the host's turn (R99). -/
theorem step_cmd_write {s : State} {w : Word} {ops : List HostOp} (hturn : nextTurn s = .host)
    (hhost : s.host = .txn (.write 0x000#32 .word w) :: ops) :
    step s = dispatchCmd w (((s.setTurns s.turns.tail).setHost ops).respond okayWrite) := by
  rw [step_of_nextCommand ((nextCommand_eq_some_iff s w).2 ⟨hturn, ops, hhost⟩), hhost, List.tail_cons]

/-- An issued command is dispatched in the very next step. -/
theorem step_issueCommand (s : State) (w : Word) :
    step (s.issueCommand w) = dispatchCmd w (s.respond okayWrite) := by
  have hturn : nextTurn (s.issueCommand w) = .host := rfl
  have hhost : (s.issueCommand w).host = .txn (.write 0x000#32 .word w) :: s.host := rfl
  have hrest : ((s.issueCommand w).setTurns (s.issueCommand w).turns.tail).setHost s.host = s := by
    cases s
    rfl
  rw [step_cmd_write hturn hhost, hrest]

/-- A command's word is its own low 32 bits, so it is the word that is issued. -/
theorem ofNat_toNat_mod (w : Word) : BitVec.ofNat 32 (w.toNat % 2 ^ 32) = w := by
  rw [Nat.mod_eq_of_lt w.isLt, BitVec.ofNat_toNat, BitVec.setWidth_eq]

/-- Settles O45: the step dispatches the word, and dispatch is by what the word decodes to. -/
theorem stepRunsTheDecodedCommand : Obligations.StepRunsTheDecodedCommand := by
  refine ⟨fun s w i ops hturn hhost hd => ?_, fun s w e ops hturn hhost hd => ?_, fun s i => ?_⟩
  · rw [step_cmd_write hturn hhost, dispatchCmd_of_ok hd]
    rfl
  · rw [step_cmd_write hturn hhost, dispatchCmd, hd]
    rfl
  · rw [State.withFetchWord, ofNat_toNat_mod, step_issueCommand, dispatchCmd_encode]
    rfl

/-! ## HASH on a legal length -/

theorem exec_hash_idle (a : Byte) {s : State} (h : s.busy = false) :
    exec (.hash a) s = .next (acceptHash s) :=
  congrArg Host.Outcome.next (State.whenIdle_idle h _)

theorem acceptHash_latches {s : State} (h : lengthCheck s.params.inSize s.length.toNat = none) :
    acceptHash s = s.clearDone.beginCommand.latchHash := by
  rw [acceptHash, h]

/-- Settles O10: the length passes all three checks. -/
theorem hashLatchesItsOperandsAndStarts : Obligations.HashLatchesItsOperandsAndStarts := by
  intro a s hidle hlong hsize hfits
  rw [exec_hash_idle a hidle, acceptHash_latches ((lengthCheck_eq_none_iff _ _).2 ⟨hlong, hsize, hfits⟩)]
  rfl

end Sys2Proof.Machine
end

section
/-! PROOFS. The host's bus: register reads and writes (R31, R34, R103, R104), words of IBUF (R49), the
window (R42), `waitidle` (R68), and the lines of a host program (R67, R68). -/

namespace Sys2Proof.Machine

/-! ## Registers -/

/-- Fields that do not overlap, appended, are their sum at their bits. -/
theorem append_flags_eq_sum : ∀ (busy done err rej : Bool) (code : BitVec 4),
    (0#24 ++ code ++ BitVec.ofBool rej ++ BitVec.ofBool err ++ BitVec.ofBool done
      ++ BitVec.ofBool busy : Word) =
    (BitVec.ofBool busy).setWidth 32 + (BitVec.ofBool done).setWidth 32 <<< 1 +
      (BitVec.ofBool err).setWidth 32 <<< 2 + (BitVec.ofBool rej).setWidth 32 <<< 3 +
      code.setWidth 32 <<< 4 := by
  decide

/-- STATUS as the sum of its flags at their bits (R26). -/
theorem State.statusWord_eq_sum (s : State) :
    s.statusWord = (BitVec.ofBool s.busy).setWidth 32 + (BitVec.ofBool s.done).setWidth 32 <<< 1 +
      (BitVec.ofBool s.err).setWidth 32 <<< 2 + (BitVec.ofBool s.rej).setWidth 32 <<< 3 +
      s.errCode.setWidth 32 <<< 4 :=
  append_flags_eq_sum _ _ _ _ _

theorem State.configWord_eq_sum (s : State) :
    s.configWord = (BitVec.ofBool s.ie).setWidth 32 + (BitVec.ofBool s.laCheck).setWidth 32 <<< 1 := by
  rw [State.configWord]
  cases s.ie <;> cases s.laCheck <;> rfl

theorem memRead_reserved {off : Word} (s : State) (hlo : 0x018 ≤ off.toNat) (hhi : off.toNat ≤ 0xFFC)
    (ha : off.toNat % 4 = 0) : memRead off .word s = .next (s.respond (okayRead 0x00000000#32)) := by
  rw [memRead_register s (hhi.trans_lt (by decide)) ha, regAt_reserved hlo]
  rfl

theorem memWrite_reserved {off : Word} (v : Word) (s : State) (hlo : 0x018 ≤ off.toNat)
    (hhi : off.toNat ≤ 0xFFC) (ha : off.toNat % 4 = 0) :
    memWrite off .word v s = .next (s.respond okayWrite) := by
  rw [memWrite_register v s (hhi.trans_lt (by decide)) ha, regAt_reserved hlo]
  rfl

/-- Settles O47: each offset reaches its register; STATUS and CONFIG are the sums of their fields. -/
theorem registerReads : Obligations.RegisterReads := by
  intro s
  rw [← s.statusWord_eq_sum, ← s.configWord_eq_sum]
  exact ⟨rfl, rfl, rfl, rfl, rfl, rfl, fun _ => memRead_reserved s⟩

/-- Settles O48: each offset reaches its register. -/
theorem registerWrites : Obligations.RegisterWrites := fun s v =>
  ⟨memWrite_cmd v s, rfl, rfl, rfl, rfl, rfl, fun _ => memWrite_reserved v s⟩

theorem configMask_getLsbD : ∀ k < 32, (0x00000003#32).getLsbD k = decide (k < 2) := by decide

/-- CONFIG keeps bits 0 and 1 of what is written to it (R34). -/
theorem setConfig_configWord (s : State) (v : Word) :
    (s.setConfig v).configWord = v &&& 0x00000003#32 := by
  apply BitVec.eq_of_getLsbD_eq
  intro k hk
  rw [State.configWord, BitVec.getLsbD_append, BitVec.getLsbD_append, BitVec.getLsbD_and,
    configMask_getLsbD k hk]
  match k with
  | 0 => simp
  | 1 => simp
  | k + 2 => simp

/-- Settles O49: what the write stored is what the read returns. -/
theorem lengthAndConfigReadBack : Obligations.LengthAndConfigReadBack := by
  refine fun s s' v => ⟨fun h => ?_, fun h => ?_⟩
  · cases h
    rfl
  · cases h
    rw [← setConfig_configWord (s.respond okayWrite) v]
    rfl

/-! ## The window -/

/-- Settles O54: such an offset is in no region of the block. -/
theorem outsideTheWindowIsRefused : Obligations.OutsideTheWindowIsRefused := by
  intro s off size v h
  have hout : regionOf s.params.inSize off size = .outside := regionOf_outside.2 h
  constructor
  · rw [memRead, hout]
  · rw [memWrite, hout]

/-! ## waitidle -/

/-- Settles O57: a poll reads STATUS, and its bit 0 is BUSY. -/
theorem waitIdlePollsStatus : Obligations.WaitIdlePollsStatus := by
  intro s rest hhost
  have hpoll : hostStep s = pollStatus rest s := by rw [hostStep, hhost]
  rw [hpoll]
  rcases pollStatus_cases rest s with ⟨hb, hr⟩ | ⟨hb, hr⟩
  · exact ⟨fun _ => hr, fun h => by simp [hb] at h⟩
  · exact ⟨fun h => by simp [hb] at h, fun _ => hr⟩

/-! ## Host programs -/

/-- The number a `cmd LOOKUP` line writes is LOOKUP's word (R66, R67). -/
theorem ofNat_lookup_word (b : Byte) :
    BitVec.ofNat 32 (0x00000002 + b.toNat * 256) = encode (.lookup b) := by
  have hb : b.toNat < 256 := b.isLt
  apply BitVec.eq_of_toNat_eq
  rw [encode_lookup, BitVec.toNat_append, BitVec.toNat_append,
    ← Nat.shiftLeft_add_eq_or_of_lt (BitVec.isLt _), Nat.shiftLeft_eq, BitVec.toNat_ofNat]
  simp
  omega

/-- Settles O60: every clause but that of `cmd LOOKUP` is the definition of the line. -/
theorem hostProgramLinesExpand : Obligations.HostProgramLinesExpand :=
  ⟨fun _ _ => ⟨rfl, rfl, rfl, rfl, rfl, rfl⟩, fun _ => rfl, rfl, rfl, rfl, rfl, rfl, rfl, fun _ => rfl,
   rfl, rfl, rfl, fun b => by rw [← ofNat_lookup_word]; rfl, fun _ => rfl, fun _ => rfl, rfl,
   fun _ => rfl, fun _ _ _ => rfl, fun _ => rfl, fun _ _ _ => rfl, fun _ _ => rfl, fun _ => rfl,
   fun _ _ _ => rfl⟩

/-! ## Words of IBUF in bytes -/

theorem word_eq_of_bytes {v w : Word} (h : ∀ k < 4, v.extractLsb' (8 * k) 8 = w.extractLsb' (8 * k) 8) :
    v = w := by
  apply BitVec.eq_of_getLsbD_eq
  intro k hk
  have hbit := congrArg (·.getLsbD (k % 8)) (h (k / 8) (by omega))
  simpa [BitVec.getLsbD_extractLsb', Nat.mod_lt, Nat.div_add_mod] using hbit

/-- A word is its four bytes, packed (R47, R48). -/
theorem pack32_wordByte (v : Word) :
    pack32 ⟨wordByte v 0, wordByte v 1, wordByte v 2, wordByte v 3⟩ = v :=
  word_eq_of_bytes (pack32_byte (wordByte v))

/-- The four bytes at index `i` are those of the word `v`. -/
def State.holdsWord (s : State) (i : Nat) (v : Word) : Prop :=
  ∀ k < 4, s.ibufByte (i + k) = wordByte v k

theorem State.holdsWord_writeIbuf (s : State) (i : Nat) (v : Word) :
    (s.writeIbuf i (writeData .word v)).holdsWord i v := by
  intro k hk
  rw [s.ibufByte_writeIbuf_writeData, if_pos ⟨Nat.le_add_right i k, Nat.add_lt_add_left hk i⟩,
    Nat.add_sub_cancel_left]

theorem State.holdsWord.readIbuf {s : State} {i : Nat} {v : Word} (h : s.holdsWord i v) :
    s.readIbuf i .word = v := by
  have hbyte : ∀ k < 4, s.loadByte i .word k = wordByte v k := fun k hk =>
    (if_pos hk).trans (h k hk)
  rw [s.readIbuf_eq_pack32, hbyte 0 (by decide), hbyte 1 (by decide), hbyte 2 (by decide),
    hbyte 3 (by decide), pack32_wordByte]

theorem memRead_byte {s : State} {off : Word} {i : Nat} (hoff : off.toNat = ibufBase + i)
    (hin : i < s.params.inSize) :
    memRead off .byte s = .next (s.respond (okayRead (0#24 ++ s.ibufByte i))) :=
  memRead_buffer (regionOf_buffer.2 ⟨hoff, hin, Nat.mod_one i⟩)

/-- An aligned word write leaves the word at its index. -/
theorem memWrite_word_holds {s s' : State} {off : Word} {i : Nat} {v : Word}
    (hreg : regionOf s.params.inSize off .word = .buffer i) (h : memWrite off .word v s = .next s') :
    s'.holdsWord i v ∧ s'.params = s.params := by
  cases (memWrite_buffer v hreg).symm.trans h
  exact ⟨(s.respond okayWrite).holdsWord_writeIbuf i v, rfl⟩

/-- Settles O51: the write leaves the word's four bytes, and either read returns them. -/
theorem ibufWordReadsBackInBytes : Obligations.IbufWordReadsBackInBytes := by
  intro s s' off i k v hoff hfit hsize halign hk h
  have hreg : regionOf s.params.inSize off .word = .buffer i :=
    regionOf_buffer.2 ⟨hoff, by omega, halign⟩
  obtain ⟨hword, hparams⟩ := memWrite_word_holds hreg h
  have hnext : (off + BitVec.ofNat 32 k).toNat = ibufBase + (i + k) := by
    rw [BitVec.toNat_add_of_lt] <;> simp [ibufBase] <;> omega
  rw [← hparams] at hreg
  constructor
  · rw [memRead_buffer hreg, hword.readIbuf]
    rfl
  · rw [memRead_byte hnext (by rw [hparams]; omega), hword k hk]
    rfl

end Sys2Proof.Machine
end

section
/-! PROOFS. The substitution table (R16, R72): its three cycles, and that it is a permutation. -/

namespace Sys2Proof.Machine

open Function

/-- A byte that T brings back after `n` steps and not before has period `n`. -/
theorem minimalPeriod_T_eq {a : Byte} {n : Nat} (hreturn : T^[n + 1] a = a)
    (hfirst : a ∉ List.iterate T (T a) n) : minimalPeriod T a = n + 1 := by
  have hle : minimalPeriod T a ≤ n + 1 := IsPeriodicPt.minimalPeriod_le n.succ_pos hreturn
  have hpos : 0 < minimalPeriod T a := IsPeriodicPt.minimalPeriod_pos n.succ_pos hreturn
  by_contra hne
  obtain ⟨m, hm⟩ := Nat.exists_eq_succ_of_ne_zero hpos.ne'
  refine hfirst (List.mem_iterate.2 ⟨m, by omega, ?_⟩)
  rw [← iterate_succ_apply, ← hm, iterate_minimalPeriod]

theorem minimalPeriod_T_5B : minimalPeriod T 0x5B#8 = 5 :=
  minimalPeriod_T_eq rfl (by decide)

theorem minimalPeriod_T_02 : minimalPeriod T 0x02#8 = 13 :=
  minimalPeriod_T_eq rfl (by decide)

theorem minimalPeriod_T_00 : minimalPeriod T 0x00#8 = 238 :=
  minimalPeriod_T_eq (by decide +kernel) (by decide +kernel)

/-- The bytes of the cycle that `a` lies on. -/
noncomputable def cycleOf (a : Byte) : Finset Byte := (Finset.range (minimalPeriod T a)).image fun k => T^[k] a

theorem card_cycleOf (a : Byte) : (cycleOf a).card = minimalPeriod T a := by
  have hinj : Set.InjOn (fun k => T^[k] a) (Finset.range (minimalPeriod T a)) := by
    rw [Finset.coe_range]
    exact iterate_injOn_Iio_minimalPeriod
  rw [cycleOf, Finset.card_image_of_injOn hinj, Finset.card_range]

/-- The bytes of a cycle have the period of the byte it starts from. -/
theorem minimalPeriod_T_of_mem {a b : Byte} (h : b ∈ cycleOf a) :
    minimalPeriod T b = minimalPeriod T a := by
  obtain ⟨k, hk, rfl⟩ := Finset.mem_image.1 h
  have hpos : 0 < minimalPeriod T a := Nat.zero_lt_of_lt (Finset.mem_range.1 hk)
  exact minimalPeriod_apply_iterate (minimalPeriod_pos_iff_mem_periodicPts.1 hpos) k

/-- Cycles of different lengths share no byte. -/
theorem disjoint_cycleOf {a b : Byte} (h : minimalPeriod T a ≠ minimalPeriod T b) :
    Disjoint (cycleOf a) (cycleOf b) :=
  Finset.disjoint_left.2 fun _ ha hb =>
    h ((minimalPeriod_T_of_mem ha).symm.trans (minimalPeriod_T_of_mem hb))

theorem card_byte : Fintype.card Byte = 256 :=
  FinEnum.card_eq_fintypeCard.symm.trans (FinEnum.card_bitVec 8)

/-- The three cycles hold every byte, because 5 + 13 + 238 = 256. -/
theorem cycles_cover : cycleOf 0x5B#8 ∪ cycleOf 0x02#8 ∪ cycleOf 0x00#8 = Finset.univ := by
  apply Finset.eq_univ_of_card
  rw [Finset.card_union_of_disjoint, Finset.card_union_of_disjoint, card_cycleOf, card_cycleOf,
    card_cycleOf, minimalPeriod_T_5B, minimalPeriod_T_02, minimalPeriod_T_00, card_byte]
  · exact disjoint_cycleOf (by simp [minimalPeriod_T_5B, minimalPeriod_T_02])
  · exact Finset.disjoint_union_left.2
      ⟨disjoint_cycleOf (by simp [minimalPeriod_T_5B, minimalPeriod_T_00]),
        disjoint_cycleOf (by simp [minimalPeriod_T_02, minimalPeriod_T_00])⟩

theorem minimalPeriod_T (b : Byte) :
    minimalPeriod T b = 5 ∨ minimalPeriod T b = 13 ∨ minimalPeriod T b = 238 := by
  have hb : b ∈ cycleOf 0x5B#8 ∪ cycleOf 0x02#8 ∪ cycleOf 0x00#8 := cycles_cover ▸ Finset.mem_univ b
  rw [Finset.mem_union, Finset.mem_union, or_assoc] at hb
  exact hb.imp (fun h => (minimalPeriod_T_of_mem h).trans minimalPeriod_T_5B)
    (Or.imp (fun h => (minimalPeriod_T_of_mem h).trans minimalPeriod_T_02)
      (fun h => (minimalPeriod_T_of_mem h).trans minimalPeriod_T_00))

/-- A byte on a cycle is an image, so T is onto the 256 bytes and thus one to one (R16). -/
theorem T_injective : Injective T := by
  refine Finite.injective_iff_surjective.2 fun b => ?_
  obtain ⟨n, hn⟩ : ∃ n, minimalPeriod T b = n + 1 := by
    rcases minimalPeriod_T b with h | h | h
    · exact ⟨4, h⟩
    · exact ⟨12, h⟩
    · exact ⟨237, h⟩
  have hback : T^[n + 1] b = b := by rw [← hn, iterate_minimalPeriod]
  exact ⟨T^[n] b, (iterate_succ_apply' T n b).symm.trans hback⟩

/-- A fixed point would lie on a cycle of length 1. -/
theorem T_ne_self (b : Byte) : T b ≠ b := by
  intro h
  have h1 : minimalPeriod T b = 1 := minimalPeriod_eq_one_iff_isFixedPt.2 h
  rcases minimalPeriod_T b with h | h | h <;> simp [h1] at h

/-- Settles O6: everything follows from the three cycles. -/
theorem tableIsPermutationWithThreeCycles : Obligations.TableIsPermutationWithThreeCycles :=
  ⟨fun _ _ h => T_injective h, T_ne_self, minimalPeriod_T, ⟨_, minimalPeriod_T_5B⟩,
   ⟨_, minimalPeriod_T_02⟩, ⟨_, minimalPeriod_T_00⟩, rfl, rfl⟩

end Sys2Proof.Machine
end

section
/-! PROOFS. The engine's scan against the loop of HashFn (R77, R84 to R88): both classify a byte alike, so
the engine never stops (R44), and two lanes stay equal exactly when their seed bytes are (R95). -/

namespace Sys2Proof.Machine

/-- Settles O18: inside the string the look-ahead is the next byte. -/
theorem separatorInsideTheString : Obligations.SeparatorInsideTheString := fun _ hi hscan hsep hin =>
  engineStep_separator hi hscan (Nat.lt_of_succ_lt hin) hsep
    (lookAhead_inside hin (hi.scan_bounds hscan).2)

/-! ## The classifier on a byte array -/

/-- The look-ahead of HashFn's loop for a separator at index `i` (R77, R85 to R87). -/
def loopLookAhead (B : Nat → Byte) (inSize n : Nat) (la : Bool) (i : Nat) : LookAhead :=
  if i + 1 < n then .byte (B (i + 1))
  else if la then .outOfBounds
  else .byte (if n < inSize then B n else laGuard)

/-- The verdict of HashFn's loop at index `i` (R77). -/
def loopVerdict (B : Nat → Byte) (inSize n : Nat) (la : Bool) (i : Nat) : Verdict :=
  if i = n then .stop
  else if B i = term then .stop
  else if B i = sep then sepVerdict (B i) (loopLookAhead B inSize n la i)
  else .fold (B i)

/-- What the loop makes of a verdict at lanes `L`, where `rest` goes on after a fold. -/
def Verdict.resume (v : Verdict) (L : Lanes) (rest : Byte → Except ErrCode Lanes) :
    Except ErrCode Lanes :=
  match v with
  | .stop => .ok L
  | .fold b => rest b
  | .fail => .error .lookAhead
  | .noSuchIndex => .ok L

/-- One round of HashFn's loop is its verdict. -/
theorem hashLoop_succ (B : Nat → Byte) (inSize n : Nat) (la : Bool) (fuel i : Nat) (L : Lanes) :
    hashLoop B inSize n la (fuel + 1) i L =
      (loopVerdict B inSize n la i).resume L
        (fun b => hashLoop B inSize n la fuel (i + 1) (foldLanes b L)) := by
  rw [hashLoop, loopVerdict, loopLookAhead]
  unfold term sep laGuard
  split_ifs <;> simp [*, sepVerdict, Verdict.resume, term]

theorem sepVerdict_byte (b nx : Byte) :
    sepVerdict b (.byte nx) = if nx = term then .stop else .fold b := rfl

theorem sepVerdict_eq_noSuchIndex_iff (b : Byte) (la : LookAhead) :
    sepVerdict b la = .noSuchIndex ↔ la = .noSuchIndex := by
  cases la with
  | byte nx => rw [sepVerdict_byte]; split_ifs <;> simp
  | outOfBounds => simp [sepVerdict]
  | noSuchIndex => simp [sepVerdict]

/-- The loop reads no index that does not exist. -/
theorem loopVerdict_ne_noSuchIndex (B : Nat → Byte) (inSize n : Nat) (la : Bool) (i : Nat) :
    loopVerdict B inSize n la i ≠ .noSuchIndex := by
  unfold loopVerdict
  split_ifs
  · simp
  · simp
  · rw [Ne, sepVerdict_eq_noSuchIndex_iff, loopLookAhead]
    split_ifs <;> simp
  · simp

/-- Inside the string no look-ahead fails, in either mode (R85, R87). -/
theorem loopVerdict_ne_fail (B : Nat → Byte) (inSize : Nat) {n : Nat} (la : Bool) {i : Nat}
    (h : i + 1 < n) : loopVerdict B inSize n la i ≠ .fail := by
  rw [loopVerdict, loopLookAhead, if_pos h, sepVerdict_byte]
  split_ifs <;> simp

/-- In a state that meets the invariant the block's look-ahead is the loop's. -/
theorem State.Inv.lookAhead_eq {s : State} (hi : s.Inv) (hscan : s.fsm = .scan)
    (hlt : s.idx.toNat < s.lenl.toNat) :
    s.lookAhead s.idx.toNat =
      loopLookAhead s.ibufByte s.params.inSize s.lenl.toNat s.lal s.idx.toNat := by
  have hle := (hi.scan_bounds hscan).2
  unfold loopLookAhead
  rcases Nat.lt_or_eq_of_le (Nat.succ_le_of_lt hlt) with hin | hend
  · rw [if_pos hin, lookAhead_inside hin hle]
  · rw [if_neg hend.not_lt]
    cases hlal : s.lal
    · exact lookAhead_readPast hend hlal hle
    · exact lookAhead_checked hend hlal

/-- In a state that meets the invariant the block's classifier is the loop's. -/
theorem State.Inv.scanVerdict_eq {s : State} (hi : s.Inv) (hscan : s.fsm = .scan) :
    scanVerdict s = loopVerdict s.ibufByte s.params.inSize s.lenl.toNat s.lal s.idx.toNat := by
  unfold loopVerdict
  by_cases hend : s.idx = s.lenl
  · rw [if_pos (congrArg BitVec.toNat hend), scanVerdict_at_end hend]
  · have hlt := hi.idx_lt_lenl hscan hend
    rw [if_neg hlt.ne, scanVerdict_below_end hi hscan hlt, byteVerdict, hi.lookAhead_eq hscan hlt]

/-! ## The engine always takes a next state -/

theorem engineStep_progress {s : State} (hi : s.Inv) : ∃ s', engineStep s = .next s' := by
  cases hf : s.fsm with
  | idle => exact ⟨s, by rw [engineStep, hf]⟩
  | seed => exact ⟨_, (engineStep_seed hf).trans (seedStep_of_valid hi.params_valid)⟩
  | finish => exact ⟨_, engineStep_finish hf⟩
  | scan =>
    rw [engineStep_scan hf]
    rcases scanStep_cases s with ⟨-, h⟩ | ⟨b, -, h⟩ | ⟨-, h⟩ | ⟨hv, -⟩
    · exact ⟨_, h⟩
    · exact ⟨_, h⟩
    · exact ⟨_, h⟩
    · exact absurd ((hi.scanVerdict_eq hf).symm.trans hv) (loopVerdict_ne_noSuchIndex _ _ _ _ _)

theorem engineStep_idle {s : State} (h : s.fsm = .idle) : engineStep s = .next s := by
  rw [engineStep, h]

/-- Settles O26: every read of a running HASH is below IN_SIZE. -/
theorem engineNeverFaults : Obligations.EngineNeverFaults :=
  ⟨fun _ hi => engineStep_progress hi, fun _ h => engineStep_idle h⟩

/-! ## A terminator at index 1 -/

theorem hashFn_of_legal {B : Nat → Byte} {inSize n : Nat} (la : Bool) (hlong : 4 ≤ n)
    (hsize : n ≤ 0x7FFFFFFF) (hfits : n ≤ inSize) :
    hashFn B inSize n la =
      hashOut (hashLoop B inSize n la n 1 (seedLanes (B 0) (B 1) (B 2) (B 3))) := by
  rw [hashFn, if_neg hlong.not_gt, if_neg hsize.not_gt, if_neg hfits.not_gt]
  rfl

/-- Settles O25: the loop stops at once, with the seeds as its lanes, and T(0x00) = 0x01. -/
theorem terminatorAtIndexOneGivesThePackedSeeds :
    Obligations.TerminatorAtIndexOneGivesThePackedSeeds := by
  intro B inSize n la hlong hfits hsize hterm
  obtain ⟨fuel, rfl⟩ : ∃ fuel, n = fuel + 1 := ⟨n - 1, by omega⟩
  have hstop : loopVerdict B inSize (fuel + 1) la 1 = .stop := by
    rw [loopVerdict, if_neg (by omega)]
    exact if_pos hterm
  rw [hashFn_of_legal la hlong hsize hfits, hashLoop_succ, hstop, hterm]
  rfl

/-! ## Lanes and their seed bytes -/

open Function

/-- An injective function on all four lanes keeps which of them are equal. -/
theorem Lanes.matchBytes_map {f : Byte → Byte} (hf : Injective f) (L : Lanes) (B : Nat → Byte) :
    (L.map f).matchBytes B ↔ L.matchBytes B := by
  simp only [Lanes.matchBytes, Lanes.map, hf.eq_iff]

/-- Folding a byte is injective on a lane: XOR and T both are (R95). -/
theorem fold_injective (b : Byte) : Injective fun x => T (x ^^^ b) := fun x y h => by
  simpa using T_injective h

theorem foldLanes_matchBytes (b : Byte) (L : Lanes) (B : Nat → Byte) :
    (foldLanes b L).matchBytes B ↔ L.matchBytes B :=
  Lanes.matchBytes_map (fold_injective b) L B

theorem seedLanes_matchBytes (B : Nat → Byte) :
    (seedLanes (B 0) (B 1) (B 2) (B 3)).matchBytes B := by
  simp only [Lanes.matchBytes, seedLanes, T_injective.eq_iff, and_self]

/-- Every round of the loop keeps which lanes are equal. -/
theorem hashLoop_matchBytes {B : Nat → Byte} {inSize n : Nat} {la : Bool} {fuel i : Nat} {L L' : Lanes}
    (hL : L.matchBytes B) (h : hashLoop B inSize n la fuel i L = .ok L') : L'.matchBytes B := by
  induction fuel generalizing i L with
  | zero => cases h; exact hL
  | succ fuel ih =>
    rw [hashLoop_succ] at h
    cases hv : loopVerdict B inSize n la i <;> rw [hv] at h
    case fold b => exact ih ((foldLanes_matchBytes b L B).2 hL) h
    all_goals cases h
    · exact hL
    · exact hL

theorem State.engineRead_eq_some {s : State} {i : Nat} {b : Byte} (h : s.engineRead i = some b) :
    s.ibufByte i = b := by
  unfold State.engineRead at h
  split_ifs at h
  exact Option.some.inj h

/-- SEED loads the table entries of bytes 0 to 3 (R83). -/
theorem seedStep_eq {s s' : State} (h : seedStep s = .next s') :
    s' = s.startScan (seedLanes (s.ibufByte 0) (s.ibufByte 1) (s.ibufByte 2) (s.ibufByte 3)) := by
  unfold seedStep at h
  split at h
  · rename_i h0 h1 h2 h3
    cases h
    rw [State.engineRead_eq_some h0, State.engineRead_eq_some h1, State.engineRead_eq_some h2,
      State.engineRead_eq_some h3]
  · cases h

/-- A step of the engine outside SEED keeps which lanes are equal, and never leads to SEED. -/
theorem engineStep_matchBytes {s s' : State} {B : Nat → Byte} (h : engineStep s = .next s')
    (hf : s.fsm ≠ .seed) (hL : s.lanes.matchBytes B) : s'.lanes.matchBytes B ∧ s'.fsm ≠ .seed := by
  rcases engineStep_cases h with ⟨-, rfl⟩ | ⟨hseed, L, rfl⟩ | ⟨-, -, rfl⟩ | ⟨-, b, -, rfl⟩ |
    ⟨-, -, rfl⟩ | ⟨-, rfl⟩
  · exact ⟨hL, hf⟩
  · exact absurd hseed hf
  · exact ⟨hL, by simp⟩
  · exact ⟨(foldLanes_matchBytes b s.lanes B).2 hL, hf⟩
  · exact ⟨hL, by simp⟩
  · exact ⟨hL, by simp⟩

theorem engineRun_succ_inv {k : Nat} {s t : State} (h : engineRun (k + 1) s = .next t) :
    ∃ s', engineStep s = .next s' ∧ engineRun k s' = .next t := by
  rw [engineRun] at h
  cases hs : engineStep s <;> simp only [hs] at h
  · exact ⟨_, rfl, h⟩
  · cases h
  · cases h

theorem engineRun_matchBytes {k : Nat} {s t : State} {B : Nat → Byte} (h : engineRun k s = .next t)
    (hf : s.fsm ≠ .seed) (hL : s.lanes.matchBytes B) : t.lanes.matchBytes B := by
  induction k generalizing s with
  | zero => cases h; exact hL
  | succ k ih =>
    obtain ⟨s', hs, hrun⟩ := engineRun_succ_inv h
    obtain ⟨hL', hf'⟩ := engineStep_matchBytes hs hf hL
    exact ih hrun hf' hL'

/-- No command and no transaction writes a lane. -/
theorem HostEffect.lanes {s p s' : State} (h : HostEffect s p s') : s'.lanes = p.lanes := by
  cases h with
  | hash => exact (congrArg State.lanes (acceptHash_frame p)).trans rfl
  | _ => rfl

/-- Settles O24: SEED makes lanes match their bytes, and every fold keeps it. -/
theorem lanesStayEqualExactlyWhenSeedBytesAre : Obligations.LanesStayEqualExactlyWhenSeedBytesAre := by
  refine ⟨fun B _ _ _ _ _ h => hashLoop_matchBytes (seedLanes_matchBytes B) h,
    fun k s t hf h => ?_, fun B s s' h hL hreset hseed => ?_⟩
  · obtain ⟨s', hs, hrun⟩ := engineRun_succ_inv h
    rw [engineStep_seed hf] at hs
    cases seedStep_eq hs
    exact engineRun_matchBytes hrun (by simp) (seedLanes_matchBytes s.ibufByte)
  · obtain ⟨p, henv, ⟨-, he⟩ | ⟨hturn, he⟩ | ⟨hturn, -⟩ | ⟨hturn, -⟩⟩ := step_cases h
    · rwa [he.lanes, henv.lanes]
    · rw [← henv.lanes] at hL
      exact (engineStep_matchBytes he (fun hf => hseed ⟨hturn, henv.fsm ▸ hf⟩) hL).1
    · simp [State.resetsNext, hturn] at hreset
    · simp [State.resetsNext, hturn] at hreset

end Sys2Proof.Machine
end

section
/-! PROOFS. Whole-machine rules: which step writes which register (R22, R23, R28, R32, R33, R44, R54), when a
step stops (R42), and that the machines of a platform are independent (R121). -/

namespace Sys2Proof.Machine

theorem State.resetsNext_of_reset {s : State} (h : nextTurn s = .reset) : s.resetsNext = true := by
  simp [State.resetsNext, h]

theorem State.resetsNext_of_powerCycle {s : State} (h : nextTurn s = .powerCycle) :
    s.resetsNext = true := by
  simp [State.resetsNext, h]

/-- WHAT A STEP CAN DO to a register that a reset sets: the two turns that end in the reset event are one
case (R127, R128). -/
theorem step_cases_reset {s s' : State} (h : step s = .next s') :
    ∃ p, EnvOnly s p ∧
      ((nextTurn s = .host ∧ HostEffect s p s') ∨
       (nextTurn s = .engine ∧ engineStep p = .next s') ∨
       (s.resetsNext = true ∧ ∃ q : State, s' = q.resetEvent)) := by
  obtain ⟨p, henv, hhost | hengine | ⟨hturn, hr⟩ | ⟨hturn, hr⟩⟩ := step_cases h
  · exact ⟨p, henv, .inl hhost⟩
  · exact ⟨p, henv, .inr (.inl hengine)⟩
  · exact ⟨p, henv, .inr (.inr ⟨State.resetsNext_of_reset hturn, p, hr⟩)⟩
  · exact ⟨p, henv, .inr (.inr ⟨State.resetsNext_of_powerCycle hturn, p.losePower, hr⟩)⟩

/-! ## FSM leaves IDLE -/

/-- Of the host's effects only a HASH whose length passes takes FSM out of IDLE (R23). -/
theorem HostEffect.leaves_idle {s p s' : State} (h : HostEffect s p s') (hidle : p.fsm = .idle)
    (hbusy : s'.fsm ≠ .idle) :
    (∃ w a, nextCommand s = some w ∧ decode w = .ok (.hash a)) ∧
    lengthCheck p.params.inSize p.length.toNat = Option.none ∧
    s' = p.clearDone.beginCommand.latchHash := by
  cases h with
  | hash w a cmd dec =>
    rcases acceptHash_cases p with ⟨c, -, ha⟩ | ⟨hlen, ha⟩
    · exact absurd (by rw [ha, State.raiseError_fsm]) hbusy
    · exact ⟨⟨w, a, cmd, dec⟩, hlen, ha⟩
  | illegal => exact absurd rfl hbusy
  | _ => exact absurd hidle hbusy

/-- Settles O37: an idle engine takes no step, and a reset ends in IDLE. -/
theorem onlyAnAcceptedHashLeavesIdle : Obligations.OnlyAnAcceptedHashLeavesIdle := by
  intro s s' h hidle hbusy
  obtain ⟨p, henv, ⟨-, he⟩ | ⟨-, he⟩ | ⟨-, q, rfl⟩⟩ := step_cases_reset h
  · obtain ⟨hcmd, hlen, rfl⟩ := he.leaves_idle (henv.fsm.trans hidle) hbusy
    rw [henv.params, henv.length, lengthCheck_eq_none_iff] at hlen
    obtain ⟨hlong, hsize, hfits⟩ := hlen
    exact ⟨hcmd, hlong, hsize, hfits, rfl, henv.length, henv.laCheck⟩
  · have hidle' : p.fsm = .idle := henv.fsm.trans hidle
    cases (engineStep_idle hidle').symm.trans he
    exact absurd hidle' hbusy
  · exact absurd rfl hbusy

/-! ## The registers of a running HASH -/

/-- `t` has the registers that the engine reads or writes as `s` has them. -/
structure SameEngine (s t : State) : Prop where
  params   : t.params = s.params
  lanes    : t.lanes = s.lanes
  idx      : t.idx = s.idx
  lenl     : t.lenl = s.lenl
  lal      : t.lal = s.lal
  fsm      : t.fsm = s.fsm
  done     : t.done = s.done
  err      : t.err = s.err
  errCode  : t.errCode = s.errCode
  result   : t.result = s.result

theorem EnvOnly.sameEngine {s p : State} (h : EnvOnly s p) : SameEngine s p := { h with }

/-- While a HASH runs no effect of the host touches its registers: a command is rejected (R22, R99). -/
theorem HostEffect.sameEngine {s p s' : State} (h : HostEffect s p s') (henv : EnvOnly s p)
    (hbusy : s.busy = true) : SameEngine s s' := by
  cases h with
  | illegal w e cmd dec idle => cases idle.symm.trans hbusy
  | hash w a cmd dec idle => cases idle.symm.trans hbusy
  | lookup w b cmd dec idle => cases idle.symm.trans hbusy
  | clear w a cmd dec idle => cases idle.symm.trans hbusy
  | _ => exact { henv.sameEngine with }

/-- Settles O38: LENL and LAL are outside the engine's frame, and a reset ends the HASH. -/
theorem runningHashKeepsItsLatches : Obligations.RunningHashKeepsItsLatches := by
  intro s s' h hbusy hbusy'
  obtain ⟨p, henv, ⟨-, he⟩ | ⟨-, he⟩ | ⟨-, q, rfl⟩⟩ := step_cases_reset h
  · have hsame := he.sameEngine henv hbusy
    exact ⟨hsame.lenl, hsame.lal⟩
  · rw [engineStep_frame he]
    exact ⟨henv.lenl, henv.lal⟩
  · cases hbusy'

/-! ## RESULT -/

/-- Of the host's effects only CLEAR writes RESULT (R32). -/
theorem HostEffect.result {s p s' : State} (h : HostEffect s p s') :
    s'.result = p.result ∨ (s'.result = 0x00000000#32 ∧ s.clearsNext) := by
  cases h with
  | clear w a cmd dec idle => exact .inr ⟨rfl, idle, w, a, cmd, dec⟩
  | hash => exact .inl ((congrArg State.result (acceptHash_frame p)).trans rfl)
  | _ => exact .inl rfl

/-- The engine writes RESULT and DONE together, in FINISH (R90). -/
theorem engineStep_publishes {s s' : State} (h : engineStep s = .next s') :
    (s'.result = s.result ∧ s'.done = s.done) ∨
    (s.fsm = .finish ∧ s'.result = maskedKey s.lanes ∧ s'.done = true) := by
  rcases engineStep_cases h with ⟨-, rfl⟩ | ⟨-, L, rfl⟩ | ⟨-, -, rfl⟩ | ⟨-, b, -, rfl⟩ |
    ⟨-, -, rfl⟩ | ⟨hf, rfl⟩
  case inr.inr.inr.inr.inr => exact .inr ⟨hf, rfl, rfl⟩
  all_goals exact .inl ⟨rfl, rfl⟩

/-- Settles O39, agent by agent. -/
theorem onlyFinishClearAndResetWriteResult : Obligations.OnlyFinishClearAndResetWriteResult := by
  intro s s' h
  obtain ⟨p, henv, ⟨-, he⟩ | ⟨hturn, he⟩ | ⟨hreset, q, rfl⟩⟩ := step_cases_reset h
  · rcases he.result with hkeep | ⟨hzero, hidle, hclear⟩
    · exact .inl (hkeep.trans henv.result)
    · exact .inr (.inr (.inl ⟨hzero, hidle, hclear⟩))
  · rcases engineStep_publishes he with ⟨hkeep, -⟩ | ⟨hf, hkey, hdone⟩
    · exact .inl (hkeep.trans henv.result)
    · exact .inr (.inl ⟨hturn, henv.fsm ▸ hf, henv.lanes ▸ hkey, hdone⟩)
  · exact .inr (.inr (.inr ⟨rfl, hreset⟩))

/-! ## DONE -/

/-- HASH clears DONE whether or not it starts (R78). -/
theorem acceptHash_done (s : State) : (acceptHash s).done = false := by
  rcases acceptHash_cases s with ⟨c, -, h⟩ | ⟨-, h⟩ <;> rw [h] <;> rfl

/-- Of the host's effects only HASH and CLEAR write DONE, and both clear it (R28). -/
theorem HostEffect.done {s p s' : State} (h : HostEffect s p s') :
    s'.done = p.done ∨ (s'.done = false ∧ s.busy = false ∧ ∃ w a, nextCommand s = some w ∧
      (decode w = .ok (.hash a) ∨ decode w = .ok (.clear a))) := by
  cases h with
  | hash w a cmd dec idle => exact .inr ⟨acceptHash_done p, idle, w, a, cmd, .inl dec⟩
  | clear w a cmd dec idle => exact .inr ⟨rfl, idle, w, a, cmd, .inr dec⟩
  | _ => exact .inl rfl

/-- Every step keeps DONE, or it is one of those that write it (R28). -/
theorem step_done {s s' : State} (h : step s = .next s') :
    s'.done = s.done ∨ (s'.done = true ∧ nextTurn s = .engine ∧ s.fsm = .finish) ∨
    (s'.done = false ∧ (s.resetsNext = true ∨ (s.busy = false ∧ ∃ w a, nextCommand s = some w ∧
      (decode w = .ok (.hash a) ∨ decode w = .ok (.clear a))))) := by
  obtain ⟨p, henv, ⟨-, he⟩ | ⟨hturn, he⟩ | ⟨hreset, q, rfl⟩⟩ := step_cases_reset h
  · rcases he.done with hkeep | ⟨hzero, hcmd⟩
    · exact .inl (hkeep.trans henv.done)
    · exact .inr (.inr ⟨hzero, .inr hcmd⟩)
  · rcases engineStep_publishes he with ⟨-, hkeep⟩ | ⟨hf, -, hdone⟩
    · exact .inl (hkeep.trans henv.done)
    · exact .inr (.inl ⟨hdone, hturn, henv.fsm ▸ hf⟩)
  · exact .inr (.inr ⟨rfl, .inl hreset⟩)

/-- Settles O40: `step_done` says which steps set DONE and which clear it. -/
theorem onlyFinishSetsDone : Obligations.OnlyFinishSetsDone := by
  refine fun s s' h => ⟨fun h0 h1 => ?_, fun h1 h0 => ?_⟩
  · rcases step_done h with hkeep | ⟨-, hfinish⟩ | ⟨hzero, -⟩
    · simp [hkeep, h0] at h1
    · exact hfinish
    · simp [hzero] at h1
  · rcases step_done h with hkeep | ⟨hone, -⟩ | ⟨-, hcause⟩
    · simp [hkeep, h1] at h0
    · simp [hone] at h0
    · exact hcause

/-! ## LKUP -/

/-- Of the host's effects only LOOKUP and CLEAR write LKUP (R33). -/
theorem HostEffect.lkup {s p s' : State} (h : HostEffect s p s') :
    s'.lkup = p.lkup ∨ (s.busy = false ∧ ∃ w, nextCommand s = some w ∧
      ((∃ b, decode w = .ok (.lookup b) ∧ s'.lkup = b ++ T b) ∨
       (∃ a, decode w = .ok (.clear a) ∧ s'.lkup = 0x0000#16))) := by
  cases h with
  | lookup w b cmd dec idle => exact .inr ⟨idle, w, cmd, .inl ⟨b, dec, rfl⟩⟩
  | clear w a cmd dec idle => exact .inr ⟨idle, w, cmd, .inr ⟨a, dec, rfl⟩⟩
  | hash => exact .inl ((congrArg State.lkup (acceptHash_frame p)).trans rfl)
  | _ => exact .inl rfl

/-- Settles O42: LKUP is outside the engine's frame. -/
theorem onlyLookupClearAndResetWriteLkup : Obligations.OnlyLookupClearAndResetWriteLkup := by
  intro s s' h
  obtain ⟨p, henv, ⟨-, he⟩ | ⟨-, he⟩ | ⟨hreset, q, rfl⟩⟩ := step_cases_reset h
  · exact he.lkup.imp (·.trans henv.lkup) .inr
  · rw [engineStep_frame he]
    exact .inl henv.lkup
  · exact .inr (.inl ⟨rfl, hreset⟩)

/-! ## LENGTH and CONFIG -/

/-- Of the host's effects only a write to LENGTH writes it (R31, R104). -/
theorem HostEffect.lengthReg {s p s' : State} (h : HostEffect s p s') :
    s'.length = p.length ∨ nextTxn s = some (.write 0x008#32 .word s'.length) := by
  cases h with
  | length v txn => exact .inr txn
  | hash => exact .inl ((congrArg State.length (acceptHash_frame p)).trans rfl)
  | _ => exact .inl rfl

/-- Of the host's effects only a write to CONFIG writes it (R34, R104). -/
theorem HostEffect.configReg {s p s' : State} (h : HostEffect s p s') :
    (s'.ie = p.ie ∧ s'.laCheck = p.laCheck) ∨
    ∃ v, nextTxn s = some (.write 0x014#32 .word v) ∧ s'.ie = v.getLsbD 0 ∧
      s'.laCheck = v.getLsbD 1 := by
  cases h with
  | config v txn => exact .inr ⟨v, txn, rfl, rfl⟩
  | hash =>
    rw [acceptHash_frame p]
    exact .inl ⟨rfl, rfl⟩
  | _ => exact .inl ⟨rfl, rfl⟩

/-- Settles O44: LENGTH and CONFIG are outside the engine's frame. -/
theorem onlyHostWritesChangeLengthAndConfig : Obligations.OnlyHostWritesChangeLengthAndConfig := by
  intro s s' h
  obtain ⟨p, henv, ⟨-, he⟩ | ⟨-, he⟩ | ⟨hreset, q, rfl⟩⟩ := step_cases_reset h
  · have hconfig := he.configReg
    rw [henv.ie, henv.laCheck] at hconfig
    exact ⟨he.lengthReg.imp (·.trans henv.length) .inr, hconfig.imp_right .inr⟩
  · rw [engineStep_frame he]
    exact ⟨.inl henv.length, .inl ⟨henv.ie, henv.laCheck⟩⟩
  · exact ⟨.inr (.inl hreset), .inr (.inl hreset)⟩

/-! ## IBUF -/

/-- Of the host's effects only a write to IBUF changes it: no command does (R44). -/
theorem HostEffect.ibufByte {s p s' : State} (h : HostEffect s p s') :
    s'.ibufByte = p.ibufByte ∨
    ∃ t i vs, nextTxn s = some t ∧ t.ibufStore s.params.inSize = some (i, vs) ∧
      s' = p.writeIbuf i vs := by
  cases h with
  | store off size v i txn reg st => exact .inr ⟨_, i, _, txn, st, rfl⟩
  | hash =>
    rw [acceptHash_frame p]
    exact .inl rfl
  | _ => exact .inl rfl

/-- A byte that a store changes is one of those it carries. -/
theorem State.writeIbuf_changed {s : State} {i k : Nat} {vs : List Byte}
    (h : (s.writeIbuf i vs).ibufByte k ≠ s.ibufByte k) :
    i ≤ k ∧ k < i + vs.length ∧ vs[k - i]? = some ((s.writeIbuf i vs).ibufByte k) := by
  by_cases hin : i ≤ k ∧ k < i + vs.length
  · obtain ⟨hlo, hhi⟩ := hin
    refine ⟨hlo, hhi, ?_⟩
    rw [s.ibufByte_writeIbuf_inside vs hlo hhi, List.getElem?_eq_getElem]
  · exact absurd (s.ibufByte_writeIbuf_outside vs (by omega)) h

/-- Settles O43: IBUF is outside the engine's frame, and the reset event leaves it. -/
theorem onlyHostWritesChangeIbuf : Obligations.OnlyHostWritesChangeIbuf := by
  intro s s' h hpower k hk
  obtain ⟨p, henv, ⟨-, he⟩ | ⟨-, he⟩ | ⟨-, rfl⟩ | ⟨hturn, -⟩⟩ := step_cases h
  · rw [← henv.ibufByte] at hk
    rcases he.ibufByte with hkeep | ⟨t, i, vs, htxn, hstore, rfl⟩
    · exact absurd (congrFun hkeep k) hk
    · exact ⟨t, i, vs, htxn, hstore, State.writeIbuf_changed hk⟩
  · rw [engineStep_frame he] at hk
    exact absurd (congrFun henv.ibufByte k) hk
  · exact absurd (congrFun henv.ibufByte k) hk
  · exact absurd hturn hpower

/-! ## When a step stops -/

/-- A transaction in the window reaches a region of the block (R42). -/
theorem regionOf_ne_outside {inSize : Nat} {t : Txn} (h : t.inWindow inSize = true) :
    regionOf inSize t.target.1 t.target.2 ≠ .outside := fun hout =>
  (of_decide_eq_true h).not_ge (regionOf_outside.1 hout)

theorem transact_progress {t : Txn} {s : State} (h : t.inWindow s.params.inSize = true) :
    ∃ s', transact t s = .next s' := by
  have hregion := regionOf_ne_outside h
  cases t with
  | read off size =>
    rcases memRead_cases off size s with ⟨r, hr⟩ | ⟨hout, -⟩
    · exact ⟨_, hr⟩
    · exact absurd hout hregion
  | write off size v =>
    rcases memWrite_cases off size v s with ⟨r, hr, -, -⟩ | ⟨-, -, hr⟩ | ⟨-, -, hr, -, -⟩ |
      ⟨-, -, hr, -, -⟩ | ⟨i, -, -, -, hr⟩ | ⟨hout, -⟩
    case inr.inl =>
      obtain ⟨s', hs', -⟩ := dispatchCmd_completes v (s.respond okayWrite)
      exact ⟨s', hr.trans hs'⟩
    case inr.inr.inr.inr.inr => exact absurd hout hregion
    all_goals exact ⟨_, hr⟩

theorem hostStep_progress {s : State}
    (h : ∀ t rest, s.host = .txn t :: rest → t.inWindow s.params.inSize = true) :
    ∃ s', hostStep s = .next s' := by
  rcases hostStep_cases s with ⟨-, hr⟩ | ⟨t, rest, hhost, hr⟩ | ⟨rest, -, hr⟩
  · exact ⟨s, hr⟩
  · obtain ⟨s', hs'⟩ := transact_progress (s := s.setHost rest) (h t rest hhost)
    exact ⟨s', hr.trans hs'⟩
  · rcases pollStatus_cases rest s with ⟨-, hp⟩ | ⟨-, hp⟩
    · exact ⟨_, hr.trans hp⟩
    · exact ⟨_, hr.trans hp⟩

/-- Settles O46: each agent's turn goes through, the host's by its transaction lying in the window. -/
theorem noStepStopsInsideTheWindow : Obligations.NoStepStopsInsideTheWindow := by
  intro s hi hwindow
  have henv := (EnvOnly.refl s).setTurns s.turns.tail
  rw [step_eq]
  cases hturn : nextTurn s with
  | host => exact hostStep_progress fun t rest hhost => hwindow t (nextTxn_of_host hturn hhost)
  | engine => exact engineStep_progress (hi.envOnly henv)
  | reset => exact ⟨_, rfl⟩
  | powerCycle => exact ⟨_, rfl⟩

/-! ## Platform -/

/-- A step of the platform puts the stepped machine back in its place, or has none to step (R121). -/
theorem Platform.step_cases {p q : Platform} {k : Nat} {rest : List Nat} (hk : p.schedule = k :: rest)
    (h : Platform.step p = .next q) :
    (p.insts[k]? = none ∧ q = { p with schedule := rest }) ∨
    ∃ s s', p.insts[k]? = some s ∧ Machine.step s = .next s' ∧
      q = { insts := p.insts.set k s', schedule := rest } := by
  unfold Platform.step at h
  rw [hk] at h
  cases hs : p.insts[k]? with
  | none => simp only [hs] at h; cases h; exact .inl ⟨rfl, rfl⟩
  | some s =>
    simp only [hs] at h
    cases hstep : Machine.step s <;> simp only [hstep] at h <;> cases h
    exact .inr ⟨s, _, rfl, hstep, rfl⟩

/-- Settles O59: the step sets one element of the list. -/
theorem instancesDoNotInterfere : Obligations.InstancesDoNotInterfere := by
  intro p q k rest hk h
  rcases Platform.step_cases hk h with ⟨hnone, rfl⟩ | ⟨s, s', hs, hstep, rfl⟩
  · exact ⟨rfl, fun _ _ => rfl, fun s hs => by simp [hnone] at hs⟩
  · refine ⟨rfl, fun j hj => List.getElem?_set_ne hj.symm, fun t ht => ?_⟩
    cases hs.symm.trans ht
    obtain ⟨hlt, -⟩ := List.getElem?_eq_some_iff.1 hs
    exact ⟨s', hstep, List.getElem?_set_self hlt⟩

end Sys2Proof.Machine
end

section
/-! PROOFS. A running HASH ends: `stepsLeft` bounds its engine steps (R94, R137, R138). -/

namespace Sys2Proof.Machine

/-! ## The bound goes down -/

theorem State.busy_of_seed {s : State} (hseed : s.fsm = .seed) : s.busy = true :=
  s.busy_eq_true_iff.2 (by simp [hseed])

theorem stepsLeft_idle {s : State} (h : s.fsm = .idle) : s.stepsLeft = 0 := by
  rw [State.stepsLeft, h]

theorem stepsLeft_seed {s : State} (h : s.fsm = .seed) : s.stepsLeft = s.lenl.toNat + 2 := by
  rw [State.stepsLeft, h]

theorem stepsLeft_scan {s : State} (h : s.fsm = .scan) :
    s.stepsLeft = (s.lenl.toNat - s.idx.toNat) + 2 := by
  rw [State.stepsLeft, h]

theorem stepsLeft_finish {s : State} (h : s.fsm = .finish) : s.stepsLeft = 1 := by
  rw [State.stepsLeft, h]

/-- Every busy state has a step left. -/
theorem State.idle_of_stepsLeft_eq_zero {s : State} (h : s.stepsLeft = 0) : s.busy = false := by
  cases hf : s.fsm with
  | idle => exact s.busy_eq_false_iff.2 hf
  | seed => simp [stepsLeft_seed hf] at h
  | scan => simp [stepsLeft_scan hf] at h
  | finish => simp [stepsLeft_finish hf] at h

theorem SameEngine.stepsLeft {s t : State} (h : SameEngine s t) : t.stepsLeft = s.stepsLeft := by
  simp only [State.stepsLeft, h.fsm, h.lenl, h.idx]

/-- Every step of a busy engine brings the end nearer (R94). -/
theorem engineStep_stepsLeft {s s' : State} (hi : s.Inv) (hbusy : s.busy = true)
    (h : engineStep s = .next s') : s'.stepsLeft < s.stepsLeft := by
  rcases engineStep_cases h with ⟨hf, -⟩ | ⟨hf, L, rfl⟩ | ⟨hf, -, rfl⟩ | ⟨hf, b, hv, rfl⟩ |
    ⟨hf, -, rfl⟩ | ⟨hf, rfl⟩
  · exact absurd hf (s.busy_eq_true_iff.1 hbusy)
  · have hlong : 4 ≤ s.lenl.toNat := (hi.busy_len hbusy).1
    rw [stepsLeft_seed hf, stepsLeft_scan rfl]
    simp [scanStart]
    omega
  · rw [stepsLeft_scan hf, stepsLeft_finish rfl]
    omega
  · have hlt := hi.idx_lt_lenl hf (scanVerdict_fold hv).1
    rw [stepsLeft_scan hf, stepsLeft_scan (s := s.advance _) hf, State.advance_idx, idx_succ_toNat hlt,
      State.advance_lenl]
    omega
  · rw [stepsLeft_scan hf, stepsLeft_idle rfl]
    omega
  · rw [stepsLeft_finish hf, stepsLeft_idle rfl]
    omega

/-- Every step of any agent keeps the bound of a busy engine, and the engine's own lower it: nothing the
host does prolongs a HASH (R132). -/
theorem step_stepsLeft {s s' : State} (hi : s.Inv) (hbusy : s.busy = true) (h : step s = .next s') :
    s'.stepsLeft + (if nextTurn s = .engine then 1 else 0) ≤ s.stepsLeft := by
  obtain ⟨p, henv, ⟨hturn, he⟩ | ⟨hturn, he⟩ | ⟨hreset, q, rfl⟩⟩ := step_cases_reset h
  · simp [hturn, (he.sameEngine henv hbusy).stepsLeft]
  · have hlt := engineStep_stepsLeft (hi.envOnly henv) (henv.busy.trans hbusy) he
    rw [henv.sameEngine.stepsLeft] at hlt
    simpa [hturn] using hlt
  · have hturn : nextTurn s ≠ .engine := by
      intro hturn
      simp [State.resetsNext, hturn] at hreset
    rw [if_neg hturn, stepsLeft_idle rfl]
    exact Nat.zero_le _

/-! ## The engine alone -/

theorem engineRun_succ {k : Nat} {s s' : State} (h : engineStep s = .next s') :
    engineRun (k + 1) s = engineRun k s' := by
  rw [engineRun, h]

/-- The engine alone reaches IDLE within the bound, and is busy until then (R94). -/
theorem engineRun_reaches_idle {s : State} (hi : s.Inv) :
    ∃ k t, k ≤ s.stepsLeft ∧ engineRun k s = .next t ∧ t.fsm = .idle ∧
      ∀ j < k, ∃ v, engineRun j s = .next v ∧ v.busy = true := by
  induction hn : s.stepsLeft using Nat.strong_induction_on generalizing s with
  | _ n ih =>
    cases hbusy : s.busy with
    | false =>
      exact ⟨0, s, Nat.zero_le _, rfl, s.busy_eq_false_iff.1 hbusy, fun j hj => absurd hj j.not_lt_zero⟩
    | true =>
      obtain ⟨s', hs⟩ := engineStep_progress hi
      have hlt := engineStep_stepsLeft hi hbusy hs
      obtain ⟨k, t, hk, hrun, hidle, hpath⟩ := ih _ (hn ▸ hlt) (hi.engineStep hs) rfl
      refine ⟨k + 1, t, by omega, (engineRun_succ hs).trans hrun, hidle, fun j hj => ?_⟩
      cases j with
      | zero => exact ⟨s, rfl, hbusy⟩
      | succ j =>
        rw [engineRun_succ hs]
        exact hpath j (by omega)

/-- A HASH is still busy after two steps: the first separator a look-ahead could fail on is at
LENL - 1 >= 3 (R87). -/
theorem engineRun_two_busy {s : State} (hi : s.Inv) (hseed : s.fsm = .seed) :
    ∃ v, engineRun 2 s = .next v ∧ v.busy = true := by
  obtain ⟨s1, h1⟩ := engineStep_progress hi
  obtain ⟨s2, h2⟩ := engineStep_progress (hi.engineStep h1)
  refine ⟨s2, by rw [engineRun_succ h1, engineRun_succ h2]; rfl, ?_⟩
  have hlong : 4 ≤ s.lenl.toNat := (hi.busy_len (State.busy_of_seed hseed)).1
  obtain rfl := seedStep_eq ((engineStep_seed hseed).symm.trans h1)
  have hnofail := loopVerdict_ne_fail s.ibufByte s.params.inSize s.lal (i := 1) (n := s.lenl.toNat)
    (by omega)
  rcases engineStep_cases h2 with ⟨hf, -⟩ | ⟨hf, -⟩ | ⟨-, -, rfl⟩ | ⟨hf, b, -, rfl⟩ | ⟨hf, hv, -⟩ |
    ⟨hf, -⟩
  · cases hf
  · cases hf
  · rfl
  · rfl
  · exact absurd (((hi.engineStep h1).scanVerdict_eq hf).symm.trans hv) hnofail
  · cases hf

/-- Settles O29: a run that reached IDLE within two steps would still be there after two. -/
theorem acceptedHashTakesThreeToLenlPlusTwoSteps :
    Obligations.AcceptedHashTakesThreeToLenlPlusTwoSteps := by
  intro s hi hseed
  obtain ⟨k, t, hk, hrun, hidle, hpath⟩ := engineRun_reaches_idle hi
  rw [stepsLeft_seed hseed] at hk
  refine ⟨k, t, ?_, hk, hrun, hidle, hpath⟩
  by_contra hshort
  obtain ⟨v, hv, hbusy⟩ := engineRun_two_busy hi hseed
  have hsame : engineRun (k + (2 - k)) s = .next t :=
    (engineRun_add k (2 - k) hrun).trans (engineRun_idle _ hidle)
  rw [show k + (2 - k) = 2 by omega, hv] at hsame
  cases hsame
  exact t.busy_eq_true_iff.1 hbusy hidle

/-! ## Every order of the agents -/

theorem nextTurn_of_cons {s : State} {turn : Turn} {ts : List Turn} (h : s.turns = turn :: ts) :
    nextTurn s = turn := by
  rw [nextTurn, h]

theorem engineTurns_cons (turn : Turn) (ts : List Turn) :
    engineTurns (turn :: ts) = engineTurns ts + (if turn = .engine then 1 else 0) := by
  simp [engineTurns, List.countP_cons]

/-- Settles O30: each turn of the engine lowers the bound and no other turn raises it. -/
theorem everyFairRunReachesIdle : Obligations.EveryFairRunReachesIdle := by
  intro n
  induction n with
  | zero =>
    intro s t hi _ hfair hrun
    exact ⟨0, le_rfl, s, rfl, State.idle_of_stepsLeft_eq_zero (Nat.le_zero.1 hfair)⟩
  | succ n ih =>
    intro s t hi hlen hfair hrun
    cases hbusy : s.busy with
    | false => exact ⟨0, Nat.zero_le _, s, rfl, hbusy⟩
    | true =>
      obtain ⟨s', hs, hrest⟩ := run_succ_inv Sys2Proof.core n hrun
      obtain ⟨turn, ts, hturns⟩ := List.exists_cons_of_length_pos (Nat.lt_of_lt_of_le n.succ_pos hlen)
      have hbound := step_stepsLeft hi hbusy hs
      have hts : s'.turns = ts := by rw [step_turns hs, hturns, List.tail_cons]
      rw [nextTurn_of_cons hturns] at hbound
      rw [hturns, List.take_succ_cons, engineTurns_cons] at hfair
      rw [hturns, List.length_cons] at hlen
      obtain ⟨m, hm, v, hv, hidle⟩ := ih s' t (hi.step hs) (by rw [hts]; omega)
        (by rw [hts]; omega) hrest
      exact ⟨m + 1, by omega, v, (run_succ_of_next Sys2Proof.core m hs).trans hv, hidle⟩

/-! ## The loop waitidle -/

theorem nextTurn_default {s : State} (h : s.turns = []) : nextTurn s = defaultTurn s := by
  rw [nextTurn, h]

/-- With no order given a step is one of the agent whose turn it is by default, on the state as it is. -/
theorem step_default {s : State} (h : s.turns = []) : step s = takeTurn (defaultTurn s) s := by
  have hself : s.setTurns s.turns.tail = s := by
    rw [h]
    exact (congrArg s.setTurns h.symm).trans rfl
  rw [step_eq, hself, nextTurn_default h]

/-- Settles O31: by default the busy engine goes on to IDLE, then the host's poll ends the loop. -/
theorem waitIdleEnds : Obligations.WaitIdleEnds := by
  intro s rest hi hturns hhost
  induction hn : s.stepsLeft using Nat.strong_induction_on generalizing s with
  | _ n ih =>
    have hstep := step_default hturns
    cases hbusy : s.busy with
    | false =>
      rw [defaultTurn, hbusy] at hstep
      have hpoll : hostStep s = pollStatus rest s := by rw [hostStep, hhost]
      rcases pollStatus_cases rest s with ⟨hb, -⟩ | ⟨-, hr⟩
      · cases hbusy.symm.trans hb
      · exact ⟨1, _, by omega, run_succ_of_next Sys2Proof.core 0 (hstep.trans (hpoll.trans hr)), rfl,
          hbusy, rfl⟩
    | true =>
      rw [defaultTurn, hbusy] at hstep
      obtain ⟨s', hs⟩ := engineStep_progress hi
      obtain ⟨hhost', hturns', -⟩ := engineStep_env hs
      obtain ⟨k, t, hk, hrun, hend⟩ := ih _ (hn ▸ engineStep_stepsLeft hi hbusy hs) s'
        (hi.engineStep hs) (hturns'.trans hturns) (hhost'.trans hhost) rfl
      have hlt := engineStep_stepsLeft hi hbusy hs
      exact ⟨k + 1, t, by omega,
        (run_succ_of_next Sys2Proof.core k (hstep.trans hs)).trans hrun, hend⟩

end Sys2Proof.Machine
end

section
/-! PROOFS. The engine computes HashFn (R92, R93): at each point of a running HASH the rest of HashFn's loop,
from the block's own index and lanes, gives the outcome. -/

namespace Sys2Proof.Machine

/-! ## What HashFn reads -/

/-- The loop's verdict depends on the bytes up to the length and below IN_SIZE only (R77). -/
theorem loopVerdict_congr {B B' : Nat → Byte} {inSize n i : Nat} (la : Bool)
    (hB : ∀ j ≤ n, j < inSize → B' j = B j) (hn : n ≤ inSize) (hi : i ≤ n) :
    loopVerdict B' inSize n la i = loopVerdict B inSize n la i := by
  by_cases hend : i = n
  · rw [loopVerdict, loopVerdict, if_pos hend, if_pos hend]
  · have hbyte : B' i = B i := hB i hi (by omega)
    have hahead : loopLookAhead B' inSize n la i = loopLookAhead B inSize n la i := by
      unfold loopLookAhead
      split_ifs with hin _ hroom
      · rw [hB (i + 1) hin.le (by omega)]
      · rfl
      · rw [hB n le_rfl hroom]
      · rfl
    simp only [loopVerdict, hbyte, hahead]

theorem loopVerdict_fold_ne {B : Nat → Byte} {inSize n i : Nat} {la : Bool} {b : Byte}
    (h : loopVerdict B inSize n la i = .fold b) : i ≠ n := by
  rintro rfl
  simp [loopVerdict] at h

theorem hashLoop_congr {B B' : Nat → Byte} {inSize n : Nat} (la : Bool)
    (hB : ∀ j ≤ n, j < inSize → B' j = B j) (hn : n ≤ inSize) (fuel : Nat) {i : Nat} (hi : i ≤ n)
    (L : Lanes) : hashLoop B' inSize n la fuel i L = hashLoop B inSize n la fuel i L := by
  induction fuel generalizing i L with
  | zero => rfl
  | succ fuel ih =>
    rw [hashLoop_succ, hashLoop_succ, loopVerdict_congr la hB hn hi]
    cases hv : loopVerdict B inSize n la i with
    | fold b => exact ih (Nat.lt_of_le_of_ne hi (loopVerdict_fold_ne hv)) _
    | _ => rfl

theorem hashFn_of_lengthError (B : Nat → Byte) {inSize n : Nat} (la : Bool) {c : ErrCode}
    (h : lengthCheck inSize n = some c) : hashFn B inSize n la = .error c := by
  unfold lengthCheck seedLen sizeLimit at h
  unfold hashFn
  split_ifs at h ⊢ <;> cases h <;> rfl

/-- HashFn with the length check of the block. -/
theorem hashFn_of_lengthCheck_none (B : Nat → Byte) {inSize n : Nat} (la : Bool)
    (h : lengthCheck inSize n = none) :
    hashFn B inSize n la = hashOut (hashLoop B inSize n la n 1 (seedLanes (B 0) (B 1) (B 2) (B 3))) := by
  obtain ⟨hlong, hsize, hfits⟩ := (lengthCheck_eq_none_iff inSize n).1 h
  exact hashFn_of_legal la hlong hsize hfits

/-- HashFn reads bytes of IBUF only (R93). -/
theorem hashFn_congr {B B' : Nat → Byte} {inSize : Nat} (n : Nat) (la : Bool)
    (hB : ∀ j < inSize, B' j = B j) : hashFn B' inSize n la = hashFn B inSize n la := by
  cases hlen : lengthCheck inSize n with
  | some c => rw [hashFn_of_lengthError B' la hlen, hashFn_of_lengthError B la hlen]
  | none =>
    obtain ⟨hlong, -, hfits⟩ := (lengthCheck_eq_none_iff inSize n).1 hlen
    have hlong : 4 ≤ n := hlong
    rw [hashFn_of_lengthCheck_none B' la hlen, hashFn_of_lengthCheck_none B la hlen,
      hashLoop_congr la (fun j _ hj => hB j hj) hfits n (by omega), hB 0 (by omega), hB 1 (by omega),
      hB 2 (by omega), hB 3 (by omega)]

/-! ## What is left of a running HASH -/

/-- What HashFn's loop makes of the block's index and lanes: the fuel is enough to reach LENL. -/
def State.scanRest (s : State) : Except ErrCode Word :=
  hashOut (hashLoop s.ibufByte s.params.inSize s.lenl.toNat s.lal (s.lenl.toNat + 1 - s.idx.toNat)
    s.idx.toNat s.lanes)

/-- A busy `s` is on the way to the outcome `r`. -/
def State.computes (s : State) (r : Except ErrCode Word) : Prop :=
  match s.fsm with
  | .idle => False
  | .seed => (s.startScan
      (seedLanes (s.ibufByte 0) (s.ibufByte 1) (s.ibufByte 2) (s.ibufByte 3))).scanRest = r
  | .scan => s.scanRest = r
  | .finish => .ok (maskedKey s.lanes) = r

theorem computes_scan {s : State} {r : Except ErrCode Word} (h : s.fsm = .scan) :
    s.computes r ↔ s.scanRest = r := by
  rw [State.computes, h]

theorem computes_finish {s : State} {r : Except ErrCode Word} (h : s.fsm = .finish) :
    s.computes r ↔ .ok (maskedKey s.lanes) = r := by
  rw [State.computes, h]

/-- One SCAN step is one round of the loop. -/
theorem scanRest_eq {s : State} (hi : s.Inv) (hscan : s.fsm = .scan) :
    s.scanRest = hashOut ((scanVerdict s).resume s.lanes fun b =>
      hashLoop s.ibufByte s.params.inSize s.lenl.toNat s.lal (s.lenl.toNat - s.idx.toNat)
        (s.idx.toNat + 1) (foldLanes b s.lanes)) := by
  have hle := (hi.scan_bounds hscan).1
  rw [State.scanRest, show s.lenl.toNat + 1 - s.idx.toNat = (s.lenl.toNat - s.idx.toNat) + 1 by omega,
    hashLoop_succ, hi.scanVerdict_eq hscan]

/-- A HASH accepted in `u` that HashFn gives the outcome `r` stands at `t`: it is on the way to `r` with
RESULT untouched, or it has ended so. -/
structure OnTrack (u : State) (r : Except ErrCode Word) (t : State) : Prop where
  inv : t.Inv
  outcome : (t.computes r ∧ t.result = u.result) ∨ (t.fsm = .idle ∧ EndedAs u t r)

theorem OnTrack.ended {u t : State} {r : Except ErrCode Word} (h : OnTrack u r t)
    (hidle : t.fsm = .idle) : EndedAs u t r := by
  rcases h.outcome with ⟨hc, -⟩ | ⟨-, he⟩
  · simp [State.computes, hidle] at hc
  · exact he

theorem OnTrack.busy {u t : State} {r : Except ErrCode Word} (h : OnTrack u r t)
    (hbusy : t.fsm ≠ .idle) : t.computes r ∧ t.result = u.result :=
  h.outcome.resolve_right fun he => hbusy he.1

/-- The accepting step puts the HASH on the way to what HashFn gives, length errors among it (R77, R78). -/
theorem acceptHash_onTrack {s : State} (hi : s.Inv) :
    OnTrack s (hashFn s.ibufByte s.params.inSize s.length.toNat s.laCheck) (acceptHash s) := by
  refine ⟨hi.acceptHash, ?_⟩
  rcases acceptHash_cases s with ⟨c, hlen, h⟩ | ⟨hlen, h⟩ <;> rw [h]
  · rw [hashFn_of_lengthError s.ibufByte s.laCheck hlen]
    exact .inr ⟨rfl, rfl, rfl, rfl, rfl⟩
  · rw [hashFn_of_lengthCheck_none s.ibufByte s.laCheck hlen]
    exact .inl ⟨rfl, rfl⟩

/-- Each step of the engine stays on the way (R83 to R90). -/
theorem OnTrack.engineStep {u t t' : State} {r : Except ErrCode Word} (ht : OnTrack u r t)
    (h : engineStep t = .next t') : OnTrack u r t' := by
  refine ⟨ht.inv.engineStep h, ?_⟩
  rcases engineStep_cases h with ⟨-, rfl⟩ | ⟨hf, -⟩ | ⟨hf, hv, rfl⟩ | ⟨hf, b, hv, rfl⟩ |
    ⟨hf, hv, rfl⟩ | ⟨hf, rfl⟩
  case inl => exact ht.outcome
  all_goals
    have hbusy : t.fsm ≠ .idle := by simp [hf]
    obtain ⟨hc, hresult⟩ := ht.busy hbusy
  · obtain rfl := seedStep_eq ((engineStep_seed hf).symm.trans h)
    rw [State.computes, hf] at hc
    exact .inl ⟨(computes_scan rfl).2 hc, hresult⟩
  · rw [computes_scan hf, scanRest_eq ht.inv hf, hv] at hc
    exact .inl ⟨hc, hresult⟩
  · have hlt := ht.inv.idx_lt_lenl hf (scanVerdict_fold hv).1
    rw [computes_scan hf, scanRest_eq ht.inv hf, hv] at hc
    refine .inl ⟨(computes_scan (s := t.advance _) hf).2 ?_, hresult⟩
    rw [State.scanRest, State.advance_idx, idx_succ_toNat hlt, Nat.succ_sub_succ]
    exact hc
  · rw [computes_scan hf, scanRest_eq ht.inv hf, hv] at hc
    have hdone := ht.inv.busy_not_done (t.busy_eq_true_iff.2 hbusy)
    exact .inr ⟨rfl, hc ▸ ⟨hdone, rfl, rfl, hresult⟩⟩
  · rw [computes_finish hf] at hc
    have herr := ht.inv.busy_no_err (t.busy_eq_true_iff.2 hbusy)
    exact .inr ⟨rfl, hc ▸ ⟨rfl, herr, ht.inv.err_iff_code.1 herr, rfl⟩⟩

theorem OnTrack.engineRun {u t v : State} {r : Except ErrCode Word} {k : Nat} (ht : OnTrack u r t)
    (h : engineRun k t = .next v) : OnTrack u r v := by
  induction k generalizing t with
  | zero => cases h; exact ht
  | succ k ih =>
    obtain ⟨t', hs, hrun⟩ := engineRun_succ_inv h
    exact ih (ht.engineStep hs) hrun

/-- Settles O27: the engine alone reaches IDLE, and there the outcome is HashFn's. -/
theorem hashRunAgreesWithHashFn : Obligations.HashRunAgreesWithHashFn := by
  intro a s hi hidle
  have hstart := acceptHash_onTrack hi
  obtain ⟨k, t, hk, hrun, hend, -⟩ := engineRun_reaches_idle hstart.inv
  refine ⟨_, k, t, exec_hash_idle a hidle, hk.trans ?_, hrun, hend, (hstart.engineRun hrun).ended hend⟩
  rcases acceptHash_cases s with ⟨c, -, h⟩ | ⟨-, h⟩ <;> rw [h]
  · rw [stepsLeft_idle rfl]
    exact Nat.zero_le _
  · exact (stepsLeft_seed rfl).le

/-! ## The operands decide -/

/-- Two runs that end alike show the same flags, and the same RESULT when DONE (R92). -/
theorem EndedAs.agree {u u' t t' : State} {r : Except ErrCode Word} (h : EndedAs u t r)
    (h' : EndedAs u' t' r) :
    t'.done = t.done ∧ t'.err = t.err ∧ t'.errCode = t.errCode ∧
    (t.done = true → t'.result = t.result) := by
  cases r with
  | ok v =>
    obtain ⟨hdone, herr, hcode, hresult⟩ := h
    obtain ⟨hdone', herr', hcode', hresult'⟩ := h'
    exact ⟨hdone'.trans hdone.symm, herr'.trans herr.symm, hcode'.trans hcode.symm,
      fun _ => hresult'.trans hresult.symm⟩
  | error c =>
    obtain ⟨hdone, herr, hcode, -⟩ := h
    obtain ⟨hdone', herr', hcode', -⟩ := h'
    exact ⟨hdone'.trans hdone.symm, herr'.trans herr.symm, hcode'.trans hcode.symm,
      fun hd => by cases hdone.symm.trans hd⟩

/-- The outcome of an accepted HASH and a run of the engine that ends it (R92). -/
theorem exec_hash_endedAs {a : Byte} {s u t : State} {k : Nat} (hi : s.Inv) (hidle : s.busy = false)
    (hu : exec (.hash a) s = .next u) (hrun : engineRun k u = .next t) (hend : t.fsm = .idle) :
    EndedAs s t (hashFn s.ibufByte s.params.inSize s.length.toNat s.laCheck) := by
  cases (exec_hash_idle a hidle).symm.trans hu
  exact ((acceptHash_onTrack hi).engineRun hrun).ended hend

/-- Settles O32: both HASHes end as HashFn says of the same operands. -/
theorem hashOutcomeDependsOnlyOnItsOperands : Obligations.HashOutcomeDependsOnlyOnItsOperands := by
  intro a a' s s' u u' t t' k k' hi hi' hidle hidle' hsize hlength hla hB hu hu' hrun hrun' hend hend'
  have h := exec_hash_endedAs hi hidle hu hrun hend
  have h' := exec_hash_endedAs hi' hidle' hu' hrun' hend'
  rw [hsize, hlength, hla, hashFn_congr _ _ hB] at h'
  exact h.agree h'

/-! ## Every interleaving -/

theorem EndedAs.congr {u t t' : State} {r : Except ErrCode Word} (h : EndedAs u t r)
    (hsame : SameEngine t t') : EndedAs u t' r := by
  cases r <;> simpa only [EndedAs, hsame.done, hsame.err, hsame.errCode, hsame.result] using h

/-- What is left of a HASH depends on the engine's registers and IBUF alone. -/
theorem State.computes.congr {t t' : State} {r : Except ErrCode Word} (h : t.computes r)
    (hsame : SameEngine t t') (hbuf : t'.ibufByte = t.ibufByte) : t'.computes r := by
  have hrest : t'.scanRest = t.scanRest := by
    simp only [State.scanRest, hbuf, hsame.params, hsame.lenl, hsame.lal, hsame.idx, hsame.lanes]
  have hseed : ∀ L, (t'.startScan L).scanRest = (t.startScan L).scanRest := fun L => by
    have hbuf' : (t'.startScan L).ibufByte = (t.startScan L).ibufByte := hbuf
    simp [State.scanRest, hbuf', hsame.params, hsame.lenl, hsame.lal]
  unfold State.computes at h ⊢
  rwa [hsame.fsm, hbuf, hrest, hseed, hsame.lanes]

theorem OnTrack.congr {u t t' : State} {r : Except ErrCode Word} (h : OnTrack u r t) (hi : t'.Inv)
    (hsame : SameEngine t t') (hbuf : t'.ibufByte = t.ibufByte) : OnTrack u r t' :=
  ⟨hi, h.outcome.imp (fun ⟨hc, hr⟩ => ⟨hc.congr hsame hbuf, hsame.result.trans hr⟩)
    fun ⟨hf, he⟩ => ⟨hsame.fsm.trans hf, he.congr hsame⟩⟩

/-- A quiet step of the host leaves IBUF alone. -/
theorem HostEffect.ibufByte_of_quiet {s p s' : State} (h : HostEffect s p s')
    (hturn : nextTurn s = .host) (hquiet : s.quiet = true) : s'.ibufByte = p.ibufByte := by
  refine h.ibufByte.resolve_right ?_
  rintro ⟨t, i, vs, htxn, hstore, -⟩
  simp [State.quiet, hturn, htxn, hstore] at hquiet

theorem State.quiet_not_reset {s : State} (h : s.quiet = true) : s.resetsNext = false := by
  unfold State.quiet at h
  cases hturn : nextTurn s <;> simp [hturn, State.resetsNext] at h ⊢

/-- A quiet step of either agent, taken while busy, stays on the way (R92). -/
theorem OnTrack.step {u t t' : State} {r : Except ErrCode Word} (ht : OnTrack u r t)
    (hbusy : t.busy = true) (hquiet : t.quiet = true) (h : Machine.step t = .next t') :
    OnTrack u r t' := by
  obtain ⟨p, henv, ⟨hturn, he⟩ | ⟨-, he⟩ | ⟨hreset, -⟩⟩ := step_cases_reset h
  · have hbuf := (he.ibufByte_of_quiet hturn hquiet).trans henv.ibufByte
    exact ht.congr (ht.inv.step h) (he.sameEngine henv hbusy) hbuf
  · exact (ht.congr (ht.inv.envOnly henv) henv.sameEngine henv.ibufByte).engineStep he
  · simp [State.quiet_not_reset hquiet] at hreset

theorem OnTrack.busyRun {u t v : State} {r : Except ErrCode Word} (ht : OnTrack u r t)
    (hrun : BusyRun t v) : OnTrack u r v := by
  induction hrun with
  | refl => exact ht
  | step busy quiet next _ ih => exact ih (ht.step busy quiet next)

/-- Settles O28: every quiet step stays on the way to HashFn's outcome. -/
theorem hashFnDecidesEveryInterleaving : Obligations.HashFnDecidesEveryInterleaving := by
  intro a s u t hi hidle hu hrun hend
  cases (exec_hash_idle a hidle).symm.trans hu
  exact ((acceptHash_onTrack hi).busyRun hrun).ended hend

end Sys2Proof.Machine
end

section
/-! PROOFS. Host and engine steps commute while a HASH runs (R132, R140): the engine's step sees only its own
registers and IBUF up to LENL, and a transaction that is no CMD write touches neither. -/

namespace Sys2Proof.Machine

/-! ## What the engine's step sees -/

/-- `t` shows the engine what `s` does: its registers, and IBUF up to LENL (R44, R86). -/
structure SameView (s t : State) : Prop extends SameEngine s t where
  bytes : ∀ i ≤ s.lenl.toNat, t.ibufByte i = s.ibufByte i

theorem SameView.engineRead {s t : State} (h : SameView s t) {i : Nat} (hi : i ≤ s.lenl.toNat) :
    t.engineRead i = s.engineRead i := by
  rw [State.engineRead, State.engineRead, h.params, h.bytes i hi]

theorem SameView.lookAhead {s t : State} (h : SameView s t) (i : Nat) :
    t.lookAhead i = s.lookAhead i := by
  simp only [State.lookAhead, h.lenl, h.lal, h.params]
  split_ifs with hin
  · rw [h.engineRead hin.le]
  · rfl
  · rfl
  · rw [h.engineRead le_rfl]

theorem SameView.scanVerdict {s t : State} (h : SameView s t) (hi : s.idx.toNat ≤ s.lenl.toNat) :
    scanVerdict t = scanVerdict s := by
  simp only [Machine.scanVerdict, byteVerdict, h.idx, h.lenl, h.engineRead hi, h.lookAhead]

theorem SameEngine.withEngine_eq {s t : State} (h : SameEngine s t) : t.withEngine s = t := by
  simp only [State.withEngine, ← h.lanes, ← h.idx, ← h.fsm, ← h.done, ← h.err, ← h.errCode, ← h.result]

/-- The engine's step is the same update on every state that looks the same to it (R92). -/
theorem SameView.engineStep {s t s' : State} (hv : SameView s t) (hi : s.Inv) (hbusy : s.busy = true)
    (h : engineStep s = .next s') : engineStep t = .next (t.withEngine s') := by
  have hself := hv.toSameEngine.withEngine_eq
  have hnext : ∀ {f : State → State}, (∀ x, t.withEngine (f x) = f (t.withEngine x)) →
      Host.Outcome.next (f t) = (.next (t.withEngine (f s)) : Outcome) := fun hf => by rw [hf, hself]
  rcases engineStep_cases h with ⟨hf, -⟩ | ⟨hf, -⟩ | ⟨hf, hs, rfl⟩ | ⟨hf, b, hs, rfl⟩ |
    ⟨hf, hs, rfl⟩ | ⟨hf, rfl⟩
  case inl => exact absurd hf (s.busy_eq_true_iff.1 hbusy)
  all_goals have hft := hv.fsm.trans hf
  · have hlong : 4 ≤ s.lenl.toNat := (hi.busy_len hbusy).1
    obtain rfl := seedStep_eq ((engineStep_seed hf).symm.trans h)
    rw [engineStep_seed hft, seedStep_of_valid (hv.params ▸ hi.params_valid), hv.bytes 0 (by omega),
      hv.bytes 1 (by omega), hv.bytes 2 (by omega), hv.bytes 3 (by omega)]
    exact hnext (f := (·.startScan _)) fun _ => rfl
  · rw [engineStep_of_stop hft ((hv.scanVerdict (hi.scan_bounds hf).1).trans hs)]
    exact hnext (f := (·.endScan)) fun _ => rfl
  · rw [engineStep_of_fold hft ((hv.scanVerdict (hi.scan_bounds hf).1).trans hs), hv.lanes]
    exact hnext (f := (·.advance _)) fun _ => rfl
  · rw [engineStep_of_fail hft ((hv.scanVerdict (hi.scan_bounds hf).1).trans hs)]
    exact hnext (f := (·.raiseError _)) fun _ => rfl
  · rw [engineStep_finish hft, finishStep, hv.lanes]
    exact hnext (f := (·.publish _)) fun _ => rfl

/-! ## What a transaction that is no CMD write does -/

/-- The update of the block, besides the response, that such a transaction makes (R104, R105). -/
inductive TxnEffect where
  | ignored
  | length (v : Word)
  | config (v : Word)
  | store (i : Nat) (vs : List Byte)

def TxnEffect.apply : TxnEffect → State → State
  | .ignored, s => s
  | .length v, s => s.setLength v
  | .config v, s => s.setConfig v
  | .store i vs, s => s.writeIbuf i vs

/-- The effect of a transaction that is no CMD write, by the region it reaches. -/
def Txn.effect (inSize : Nat) : Txn → TxnEffect
  | .read _ _ => .ignored
  | .write off size v =>
    match regionOf inSize off size with
    | .register o =>
      match regAt o with
      | .length => .length v
      | .config => .config v
      | _ => .ignored
    | .buffer i => .store i (writeData size v)
    | _ => .ignored

theorem Txn.ibufStore_of_effect {inSize i : Nat} {vs : List Byte} {t : Txn}
    (h : t.effect inSize = .store i vs) : t.ibufStore inSize = some (i, vs) := by
  cases t with
  | read off size => cases h
  | write off size v =>
    rw [Txn.effect] at h
    rw [Txn.ibufStore]
    cases hr : regionOf inSize off size with
    | buffer j => simp only [hr] at h ⊢; cases h; rfl
    | register o => simp only [hr] at h; cases hreg : regAt o <;> simp [hreg] at h
    | busError => simp [hr] at h
    | outside => simp [hr] at h

theorem regAt_eq_cmd_iff (o : Nat) : regAt o = .cmd ↔ o = 0 := by
  unfold regAt
  split_ifs <;> simp_all

/-- A write that reaches the register CMD is a CMD write. -/
theorem regAt_ne_cmd {inSize o : Nat} {off : Word} {size : Size} {v : Word}
    (hcmd : (Txn.write off size v).cmdWrite = none)
    (hreg : regionOf inSize off size = .register o) : regAt o ≠ .cmd := by
  obtain ⟨rfl, -, rfl, -⟩ := regionOf_register.1 hreg
  rw [Ne, regAt_eq_cmd_iff]
  intro hzero
  obtain rfl : off = cmdOffset := BitVec.eq_of_toNat_eq hzero
  cases hcmd

theorem transact_eq_effect {t : Txn} {s : State} (hcmd : t.cmdWrite = none)
    (hin : regionOf s.params.inSize t.target.1 t.target.2 ≠ .outside) :
    ∃ r, transact t s = .next ((t.effect s.params.inSize).apply (s.respond r)) := by
  cases t with
  | read off size =>
    exact (memRead_cases off size s).resolve_right fun h => hin h.1
  | write off size v =>
    rw [transact, memWrite, Txn.effect]
    cases hr : regionOf s.params.inSize off size with
    | buffer i => exact ⟨_, rfl⟩
    | busError => exact ⟨_, rfl⟩
    | outside => exact absurd hr hin
    | register o =>
      have hreg := regAt_ne_cmd hcmd hr
      cases ho : regAt o with
      | cmd => exact absurd ho hreg
      | _ => exact ⟨okayWrite, by simp [ho, writeReg, TxnEffect.apply]⟩

/-- A transaction that goes through lies in the window (R42). -/
theorem regionOf_of_transact {t : Txn} {s s' : State} (h : transact t s = .next s') :
    regionOf s.params.inSize t.target.1 t.target.2 ≠ .outside := by
  intro hout
  cases t with
  | read off size =>
    rw [transact, memRead, show regionOf s.params.inSize off size = .outside from hout] at h
    cases h
  | write off size v =>
    rw [transact, memWrite, show regionOf s.params.inSize off size = .outside from hout] at h
    cases h

/-- An effect that stores to no index up to LENL leaves what the engine sees. -/
theorem TxnEffect.sameView (e : TxnEffect) (s : State) (r : BusResponse)
    (hstore : ∀ i vs, e = .store i vs → s.lenl.toNat < i) : SameView s (e.apply (s.respond r)) := by
  have hsame := ((EnvOnly.refl s).respond r).sameEngine
  cases e with
  | store i vs =>
    have hlt := hstore i vs rfl
    exact { hsame with
      bytes := fun k hk => (s.respond r).ibufByte_writeIbuf_outside vs (.inl (hk.trans_lt hlt)) }
  | _ => exact { hsame with bytes := fun _ _ => rfl }

/-- The effect and the engine's update write different fields, and only the response differs. -/
theorem TxnEffect.apply_withEngine (e : TxnEffect) (s x : State) (r r' : BusResponse) :
    { (e.apply (s.respond r)).withEngine x with bus := none } =
      { e.apply ((s.withEngine x).respond r') with bus := none } := by
  cases e <;> rfl

/-- Settles O58: the engine makes the same update after the transaction, the transaction has the same effect
after the engine's step, and the two updates commute. -/
theorem hostAndEngineStepsCommute : Obligations.HostAndEngineStepsCommute := by
  intro s s1 s2 t hi hbusy hcmd hstore ht he
  have hin := regionOf_of_transact ht
  obtain ⟨r, hr⟩ := transact_eq_effect hcmd hin
  cases hr.symm.trans ht
  have hview : SameView s ((t.effect s.params.inSize).apply (s.respond r)) :=
    TxnEffect.sameView _ s r fun i vs h => hstore i vs (Txn.ibufStore_of_effect h)
  have hframe := engineStep_frame he
  have hparams : s2.params = s.params := (congrArg State.params hframe).trans rfl
  obtain ⟨r', hr'⟩ := transact_eq_effect (s := s2) hcmd (hparams ▸ hin)
  rw [hparams] at hr'
  refine ⟨_, _, hview.engineStep hi hbusy he, hr', ?_⟩
  have hcommute := (t.effect s.params.inSize).apply_withEngine s s2 r r'
  rwa [← hframe] at hcommute

end Sys2Proof.Machine
end
